-- ==== Sys2Proof/Word.lean ====
section
/-! DEFINITION. The word types of base32_core, with the widths of 00_scope.md R7 and 30_encoding.md R70, R72. Every
value is unsigned and bit 0 is the least significant (00_scope.md R9). -/

namespace Sys2Proof

/-- A byte; a symbol on any port is one byte (00_scope.md R8, R9). -/
abbrev Byte := BitVec 8

/-- A 5-bit value, 0 to 31 (00_scope.md R9). -/
abbrev Val5 := BitVec 5

/-- A command word on CMD, `CMD_W` = 16 bits (30_encoding.md R70). -/
abbrev CmdWord := BitVec 16

/-- The operand bus OPND and the result bus RES, `BUS_W` = 64 bits (30_encoding.md R72, R73). -/
abbrev Bus := BitVec 64

/-- A symbol offset, `OFF_W` = 64 bits (42_stream_decoder.md R172). -/
abbrev Offset := BitVec 64

/-- The 40-bit frame of a quantum or group (00_scope.md R13). -/
abbrev Frame := BitVec 40

end Sys2Proof
end

