-- ==== Sys2Proof/Config.lean ====
section
/-! DEFINITION. The parameters of 00_scope.md R7 and the one parameter the spec leaves open (20_memory.md R51). The
widths are those of the types in Word.lean (Tests/Slice0.lean holds the agreement). -/

namespace Sys2Proof.Config

/-- `CMD_W`, width of a command word (R7). -/
def cmdW : Nat := 16

/-- `BUS_W`, width of OPND and of RES (R7). -/
def busW : Nat := 64

/-- `LEN_W`, width of the length operand of ELEN and DLEN (R7). -/
def lenW : Nat := 32

/-- `ERR_W`, width of an I/O failure code (R7). -/
def errW : Nat := 8

/-- `OFF_W`, width of SOFF and of a Corrupt Input offset (R7). -/
def offW : Nat := 64

/-- `PAD_CHAR`, the one recognised padding byte, `=` (R7). -/
def padChar : Byte := 0x3D

/-- `SEB_DEPTH`, bytes the encode accumulator holds (R7). -/
def sebDepth : Nat := 4

/-- `SDB_DEPTH`, 5-bit values the decode accumulator holds (R7). -/
def sdbDepth : Nat := 7

/-- `Q_DEPTH`, bytes the decoded-byte queue holds (R7). -/
def qDepth : Nat := 5

/-- `CORE_BASE`, where an integrator places the command port in a larger address map: open (20_memory.md R51,
92_eei_decisions.md D29). The block has no address space (R50), so nothing in the model reads it. -/
opaque coreBase : Nat

end Sys2Proof.Config
end

