-- ==== Sys2Proof/Syntax.lean ====
section
/-! DEFINITION. The commands of base32_core, one constructor per row of spec/opcode_table.json (30_encoding.md R75),
with the unit each belongs to and its format (R71). -/

namespace Sys2Proof

/-- The fourteen commands. `k` and `j` are the 4-bit ARG field as it stands in the word (30_encoding.md R74); which
values are legal is WellFormed.lean's. -/
inductive Instr where
  /-- `ENCQ k`: encode one quantum of k bytes (40_codec_core.md R107). -/
  | encq (k : BitVec 4)
  /-- `DECQ j`: decode one group of j symbols (40_codec_core.md R112). -/
  | decq (j : BitVec 4)
  /-- `ELEN`: encoded length (40_codec_core.md R114). -/
  | elen
  /-- `DLEN`: decoded length bound (40_codec_core.md R115). -/
  | dlen
  /-- `EWRITE b`: append one byte to the encode buffer (41_stream_encoder.md R143). -/
  | ewrite (b : Byte)
  /-- `ECLOSE`: flush the final partial quantum and close (41_stream_encoder.md R147). -/
  | eclose
  /-- `ERST`: reset the encode buffer (41_stream_encoder.md R151). -/
  | erst
  /-- `ESTAT`: read the encode status register (41_stream_encoder.md R152). -/
  | estat
  /-- `DPUSH s`: deliver one input byte to the decode buffer (42_stream_decoder.md R177). -/
  | dpush (s : Byte)
  /-- `DEND`: the source has reached end-of-stream (42_stream_decoder.md R182). -/
  | dend
  /-- `DFAIL c`: the source has failed with code c (42_stream_decoder.md R184). -/
  | dfail (c : Byte)
  /-- `DREAD`: take one decoded byte, or the terminal status (42_stream_decoder.md R186). -/
  | dread
  /-- `DRST`: reset the decode buffer (42_stream_decoder.md R189). -/
  | drst
  /-- `DSTAT`: read the decode status register (42_stream_decoder.md R190). -/
  | dstat
deriving DecidableEq, Repr

/-- The four formats of a command word (30_encoding.md R71). -/
inductive Format where
  /-- ARG is a length, DATA is zero. -/
  | q
  /-- ARG and DATA are zero, OPND[31:0] is a count. -/
  | l
  /-- ARG is zero, DATA is a byte or code. -/
  | b
  /-- ARG and DATA are zero, OPND is not read. -/
  | n
deriving DecidableEq, Repr

/-- The four units of the block (00_scope.md R1). -/
inductive Component where
  | base32Encoder
  | base32Decoder
  | streamingEncodeBuffer
  | streamingDecodeBuffer
deriving DecidableEq, Repr

/-- The unit a command belongs to (30_encoding.md R75). -/
def Instr.component : Instr → Component
  | .encq _ => .base32Encoder
  | .decq _ => .base32Decoder
  | .elen => .base32Encoder
  | .dlen => .base32Decoder
  | .ewrite _ => .streamingEncodeBuffer
  | .eclose => .streamingEncodeBuffer
  | .erst => .streamingEncodeBuffer
  | .estat => .streamingEncodeBuffer
  | .dpush _ => .streamingDecodeBuffer
  | .dend => .streamingDecodeBuffer
  | .dfail _ => .streamingDecodeBuffer
  | .dread => .streamingDecodeBuffer
  | .drst => .streamingDecodeBuffer
  | .dstat => .streamingDecodeBuffer

/-- The format of a command (30_encoding.md R75). -/
def Instr.format : Instr → Format
  | .encq _ => .q
  | .decq _ => .q
  | .elen => .l
  | .dlen => .l
  | .ewrite _ => .b
  | .eclose => .n
  | .erst => .n
  | .estat => .n
  | .dpush _ => .b
  | .dend => .n
  | .dfail _ => .b
  | .dread => .n
  | .drst => .n
  | .dstat => .n

end Sys2Proof
end

