-- ==== Sys2Proof/Machine/State.lean ====
section
/-! DEFINITION. The state of base32_core: the registers of 10_state.md R26 and R29, the command that waits for the sink
(20_memory.md R55), and the model's own record of the ports (inputs to come, responses and transfers made). -/

namespace Sys2Proof.Machine

/-- The status codes of RSP (30_encoding.md R73). -/
inductive Status where
  /-- The command did what its rule gives. -/
  | ok
  /-- No decoded byte is available yet and no terminal condition is recorded. -/
  | again
  /-- Input refused because decoded bytes are still queued. -/
  | busy
  /-- End of the decoded stream. -/
  | eof
  /-- Corrupt Input. -/
  | corrupt
  /-- A sink or source failure. -/
  | ioerr
  /-- The stream is finished. -/
  | closed
  /-- The command word spells no command. -/
  | illegal
deriving DecidableEq, Repr

/-- One response of a completed command: RSP, RES and RLEN (30_encoding.md R73). -/
structure Response where
  rsp : Status
  res : Bus
  rlen : BitVec 4
deriving DecidableEq, Repr

/-- What the sink answers to one transfer on SNK_ANS (41_stream_encoder.md R141). -/
inductive SinkAnswer where
  /-- All symbols taken. -/
  | accept
  /-- None taken, with the sink's failure code. -/
  | fail (code : Byte)
deriving DecidableEq, Repr

/-- One transfer as it is offered: SNK_SYM with symbol 0 in bits [63:56], and SNK_LEN (41_stream_encoder.md R141). -/
structure Transfer where
  sym : Bus
  len : BitVec 4
deriving DecidableEq, Repr

/-- How an offered transfer ended. -/
inductive Fate where
  /-- The sink answered ACCEPT. -/
  | accepted
  /-- The sink answered FAIL with this code. -/
  | failed (code : Byte)
  /-- RST ended the wait; what the sink took is not specified (70_reset_and_hazards.md R270). -/
  | abandoned
deriving DecidableEq, Repr

/-- A transfer that has ended, and how. -/
structure TransferRecord where
  offer : Transfer
  fate : Fate
deriving DecidableEq, Repr

/-- The input pins in one step (10_state.md R35): RST, the command presented on CMD if any, OPND, and SNK_ANS (`none`
while the sink does not answer). Not the spec's state (R23); see log 1. -/
structure PortInput where
  rst : Bool
  cmd : Option CmdWord
  opnd : Bus
  ans : Option SinkAnswer
deriving DecidableEq, Repr

/-- Pins with nothing driven. -/
def PortInput.idle : PortInput := { rst := false, cmd := none, opnd := 0, ans := none }

/-- The registers of the streaming_encode_buffer (10_state.md R26). -/
structure Seb where
  acc : Vector Byte 4
  vcnt : BitVec 3
  closed : Bool
  errv : Bool
  errc : Byte
deriving DecidableEq, Repr

/-- The states of the input state machine, `DST` (10_state.md R30); the fourth 2-bit value is never held. -/
inductive Dst where
  /-- Data symbols are accepted. -/
  | run
  /-- A padding byte has been consumed. -/
  | pad
  /-- A terminal condition is recorded. -/
  | term
deriving DecidableEq, Repr

/-- The recorded terminal condition, `PST` (10_state.md R29). -/
inductive Pst where
  /-- Nothing recorded. -/
  | none
  /-- The end of the source. -/
  | eof
  /-- Corrupt Input, at offset POFF. -/
  | corrupt
  /-- A source failure, with code PERR. -/
  | ioerr
deriving DecidableEq, Repr

/-- The registers of the streaming_decode_buffer (10_state.md R29). -/
structure Sdb where
  sacc : Vector Val5 7
  scnt : BitVec 3
  qbuf : Vector Byte 5
  qidx : BitVec 3
  qcnt : BitVec 3
  dst : Dst
  pst : Pst
  poff : Offset
  perr : Byte
  soff : Offset
deriving DecidableEq, Repr

/-- The command waiting for the sink and the transfer it drives on SNK_SYM and SNK_LEN (20_memory.md R55,
70_reset_and_hazards.md R279). -/
structure Waiting where
  cmd : Instr
  offer : Transfer
deriving DecidableEq, Repr

/-- The machine. `seb`, `sdb` and `waiting` are the block's; `now`, `script`, `responses` and `transfers` are the
model's own record of its ports (log 1, log 6). -/
structure State where
  seb : Seb
  sdb : Sdb
  waiting : Option Waiting
  now : PortInput
  script : List PortInput
  responses : List Response
  transfers : List TransferRecord
deriving DecidableEq, Repr

/-- The block has no trap, exception or interrupt and no behaviour the spec leaves undefined (60_exceptions.md R240,
93_implementation_defined.md): no step faults, so there is no reason to name. -/
inductive Fault where
deriving DecidableEq, Repr

/-- The one reason a step could be refused. -/
inductive Refusal where
  /-- Raised by an arm of exec that has no meaning yet; safe, since the machine stops there. No arm is so today. -/
  | notModelled (mnemonic : String)
deriving DecidableEq, Repr

/-- What a meaning answers. -/
abbrev Result := Host.Outcome State Fault Refusal

/-- The SEB registers after reset (10_state.md R36, 70_reset_and_hazards.md R271). -/
def Seb.reset : Seb :=
  { acc := #v[0, 0, 0, 0], vcnt := 0, closed := false, errv := false, errc := 0 }

/-- The SDB registers after reset (10_state.md R36, 70_reset_and_hazards.md R271). -/
def Sdb.reset : Sdb :=
  { sacc := #v[0, 0, 0, 0, 0, 0, 0], scnt := 0, qbuf := #v[0, 0, 0, 0, 0], qidx := 0, qcnt := 0,
    dst := .run, pst := .none, poff := 0, perr := 0, soff := 0 }

/-- The machine right after reset (70_reset_and_hazards.md R271), with nothing on its ports (log 16). -/
def State.reset : State :=
  { seb := Seb.reset, sdb := Sdb.reset, waiting := none, now := PortInput.idle, script := [],
    responses := [], transfers := [] }

end Sys2Proof.Machine
end

