-- ==== Sys2Proof/Machine/Rom.lean ====
section
/-! DEFINITION. The two constant ROMs (10_state.md R24): the alphabet ALPHA (40_codec_core.md R100) and the decode table
DT, built from it by the equivalence rules (R103). -/

namespace Sys2Proof.Machine

/-- `ALPHA[0..31]`, the symbol bytes in value order: `0123456789ABCDEFGHJKMNPQRSTVWXYZ` (40_codec_core.md R100). -/
def alphaRom : List Byte :=
  [0x30, 0x31, 0x32, 0x33, 0x34, 0x35, 0x36, 0x37] ++
  [0x38, 0x39, 0x41, 0x42, 0x43, 0x44, 0x45, 0x46] ++
  [0x47, 0x48, 0x4A, 0x4B, 0x4D, 0x4E, 0x50, 0x51] ++
  [0x52, 0x53, 0x54, 0x56, 0x57, 0x58, 0x59, 0x5A]

/-- `ALPHA[v]`. The ROM has 32 entries, so a 5-bit value never falls outside it. -/
def alpha (v : Val5) : Byte := alphaRom.getD v.toNat 0

/-- Whether a byte is an uppercase letter, 0x41 to 0x5A (40_codec_core.md R103). -/
def isUpper (b : Byte) : Bool := decide (0x41#8 ≤ b) && decide (b ≤ 0x5A#8)

/-- `lower`: adds 0x20 to the codes 0x41 to 0x5A (40_codec_core.md R103). -/
def lower (b : Byte) : Byte := if isUpper b then b + 0x20 else b

/-- The 32 values in order. -/
def allValues : List Val5 := (List.range 32).map (BitVec.ofNat 5)

/-- The writes that build DT, in the order of 40_codec_core.md R103: the alphabet, its letters in lowercase, then the
aliases of `0` and of `1`. -/
def dtWrites : List (Byte × Val5) :=
  allValues.map (fun v => (alpha v, v)) ++
  (allValues.filter fun v => isUpper (alpha v)).map (fun v => (lower (alpha v), v)) ++
  [(0x4F, 0), (0x6F, 0)] ++
  [(0x49, 1), (0x69, 1), (0x4C, 1), (0x6C, 1)]

/-- `DT[b]`: the value of the last write to entry b, and `none` where there is none, which is the spec's `valid = 0`
(its `val` is never read, 40_codec_core.md R103; log 11). -/
def dt (b : Byte) : Option Val5 := dtWrites.reverse.lookup b

end Sys2Proof.Machine
end

