-- ==== Sys2Proof/Machine/Operands.lean ====
section
/-! DEFINITION. The buses: how a command reads OPND (30_encoding.md R72) and how bytes and symbols are laid on RES and on
SNK_SYM, lane 0 most significant (00_scope.md R10). -/

namespace Sys2Proof.Machine

/-- Lane i of a 64-bit bus, bits [63-8i : 56-8i] (00_scope.md R10). -/
def busLane (w : Bus) (i : Nat) : Byte := w.extractLsb' (56 - 8 * i) 8

/-- The first j symbols of OPND, Si in bits [63-8i : 56-8i] (30_encoding.md R72, DECQ). -/
def operandSymbols (w : Bus) (j : Nat) : List Byte := ((List.range 8).map (busLane w)).take j

/-- The first k frame bytes of OPND[39:0], Bi in bits [39-8i : 32-8i] (30_encoding.md R72, ENCQ). -/
def operandBytes (w : Bus) (k : Nat) : List Byte :=
  ((List.range 5).map fun i => w.extractLsb' (32 - 8 * i) 8).take k

/-- The count OPND[31:0], an unsigned number (30_encoding.md R72, ELEN and DLEN). -/
def operandCount (w : Bus) : Nat := (w.extractLsb' 0 32).toNat

/-- Up to 8 symbols on a 64-bit bus, symbol 0 most significant, the other lanes 0x00 (00_scope.md R10, 40_codec_core.md
R107, 41_stream_encoder.md R141). -/
def symbolsOnBus (l : List Byte) : Bus :=
  l.getD 0 0 ++ l.getD 1 0 ++ l.getD 2 0 ++ l.getD 3 0 ++ l.getD 4 0 ++ l.getD 5 0 ++ l.getD 6 0 ++ l.getD 7 0

/-- Up to 5 bytes on the 40-bit field, byte 0 most significant, the other lanes 0x00 (00_scope.md R10). -/
def bytesOnFrame (l : List Byte) : Frame :=
  l.getD 0 0 ++ l.getD 1 0 ++ l.getD 2 0 ++ l.getD 3 0 ++ l.getD 4 0

/-- `zext_64` of a byte (00_scope.md R9). -/
def zextByte (b : Byte) : Bus := b.setWidth 64

/-- `zext_64` of a 40-bit field (00_scope.md R9). -/
def zextFrame (f : Frame) : Bus := f.setWidth 64

end Sys2Proof.Machine
end

