-- ==== Sys2Proof/Machine/Codec.lean ====
section
/-! DEFINITION. The codec core as functions on lists: packing a quantum (40_codec_core.md R106), unpacking a group (R109),
the length functions (00_scope.md R12) and lane validity (40_codec_core.md R110). Both streaming buffers and the stateless
commands use these. -/

namespace Sys2Proof.Machine

/-- `EncodedLength(n) = (n*8 + 4) div 5` (00_scope.md R12). -/
def encodedLength (n : Nat) : Nat := (n * 8 + 4) / 5

/-- `DecodedLength(n) = (n*5) div 8` (00_scope.md R12). -/
def decodedLength (n : Nat) : Nat := n * 5 / 8

/-- `GroupBytes(j) = (5*j) div 8` (00_scope.md R12; the corrected table of 40_codec_core.md R111, 90_conflicts.md C1). -/
def groupBytes (j : Nat) : Nat := 5 * j / 8

/-- The eight 5-bit fields of a frame, `v[i] = F[39-5i : 35-5i]` (40_codec_core.md R106). -/
def fieldsOfFrame (f : Frame) : List Val5 := (List.range 8).map fun i => f.extractLsb' (35 - 5 * i) 5

/-- The symbols of a quantum of up to 5 bytes: its bytes left-justified in the frame, zero-filled, the first
`EncodedLength` fields looked up in ALPHA (40_codec_core.md R102, R106, R107). -/
def encodeQuantum (bs : List Byte) : List Byte :=
  ((fieldsOfFrame (bytesOnFrame bs)).map alpha).take (encodedLength bs.length)

/-- The frame of a group: the values left-justified, `v[i] = 0` past the last (40_codec_core.md R109). -/
def frameOfValues (vs : List Val5) : Frame :=
  vs.getD 0 0 ++ vs.getD 1 0 ++ vs.getD 2 0 ++ vs.getD 3 0 ++ vs.getD 4 0 ++ vs.getD 5 0 ++ vs.getD 6 0 ++ vs.getD 7 0

/-- The five bytes of a frame, `B[i] = F[39-8i : 32-8i]` (40_codec_core.md R109). -/
def bytesOfFrame (f : Frame) : List Byte := (List.range 5).map fun i => f.extractLsb' (32 - 8 * i) 8

/-- The bytes a group of up to 8 values yields; the don't-care bits are dropped unread (40_codec_core.md R109, R111,
R117). -/
def unpackGroup (vs : List Val5) : List Byte := (bytesOfFrame (frameOfValues vs)).take (groupBytes vs.length)

/-- The first lane whose byte DT marks invalid, if any, counting from `i` (40_codec_core.md R110). -/
def firstInvalidFrom (i : Nat) : List Byte → Option Nat
  | [] => none
  | b :: rest => if dt b = none then some i else firstInvalidFrom (i + 1) rest

/-- The first invalid lane of a group (40_codec_core.md R110). -/
def firstInvalid (ss : List Byte) : Option Nat := firstInvalidFrom 0 ss

/-- The values of a group's symbols (40_codec_core.md R112); only read when no lane is invalid. -/
def valuesOf (ss : List Byte) : List Val5 := ss.filterMap dt

end Sys2Proof.Machine
end

