-- ==== Sys2Proof/Machine/Flags.lean ====
section
/-! DEFINITION. The numbers of the status fields and the two read-only status images ESR (10_state.md R28) and DSR (R32).
The block has no condition codes (R33); its status flags are registers of State. -/

namespace Sys2Proof.Machine

/-- The 3-bit code of a status on RSP (30_encoding.md R73). -/
def Status.code : Status → BitVec 3
  | .ok => 0
  | .again => 1
  | .busy => 2
  | .eof => 3
  | .corrupt => 4
  | .ioerr => 5
  | .closed => 6
  | .illegal => 7

/-- The 2-bit value of DST (10_state.md R30). -/
def Dst.code : Dst → BitVec 2
  | .run => 0
  | .pad => 1
  | .term => 2

/-- The 2-bit value of PST (10_state.md R29). -/
def Pst.code : Pst → BitVec 2
  | .none => 0
  | .eof => 1
  | .corrupt => 2
  | .ioerr => 3

/-- A 1-bit flag as a bit. -/
def flagBit (b : Bool) : BitVec 1 := BitVec.ofBool b

/-- ESR, the image of the encode buffer (10_state.md R28), most significant field first. -/
def Seb.esr (e : Seb) : Bus :=
  0#48 ++ e.errc ++ 0#3 ++ flagBit e.errv ++ flagBit e.closed ++ e.vcnt

/-- DSR, the image of the decode buffer (10_state.md R32), most significant field first. -/
def Sdb.dsr (d : Sdb) : Bus :=
  0#40 ++ d.perr ++ 0#6 ++ d.pst.code ++ d.qcnt ++ d.scnt ++ d.dst.code

end Sys2Proof.Machine
end

