-- ==== Sys2Proof/Machine/Ops.lean ====
section
/-! DEFINITION. The shared operations: answering a command (30_encoding.md R73), `raise` (60_exceptions.md R246; the block
has no trap, so this response is all an error does), a sink transfer (41_stream_encoder.md R141), the input admission of
the decode buffer (42_stream_decoder.md R176), the group queue (R177) and reset (70_reset_and_hazards.md R270, R272). -/

namespace Sys2Proof.Machine

/-- The state after a command has completed with this response. -/
def State.respond (s : State) (st : Status) (res : Bus) (rlen : BitVec 4) : State :=
  { s with waiting := none, responses := s.responses ++ [{ rsp := st, res := res, rlen := rlen }] }

/-- `respond(ST, res, rlen)` ends a command (00_scope.md R11, 30_encoding.md R73). -/
def respond (st : Status) (res : Bus) (rlen : BitVec 4) (s : State) : Result := .next (s.respond st res rlen)

/-- `raise ST(info)` is `respond(ST, zext_64(info), 0)`, never a trap (00_scope.md R11, 60_exceptions.md R246). -/
def raise (st : Status) (info : Bus) (s : State) : Result := respond st info 0 s

/-- The answer to a word that spells no command: ILLEGAL, nothing changed (30_encoding.md R76). -/
def answerIllegal (s : State) : Result := respond .illegal 0 0 s

/-- Replace the encode buffer's registers. -/
def State.withSeb (s : State) (e : Seb) : State := { s with seb := e }

/-- Replace the decode buffer's registers. -/
def State.withSdb (s : State) (d : Sdb) : State := { s with sdb := d }

/-- A transfer of these symbols as it stands on SNK_SYM and SNK_LEN (41_stream_encoder.md R141). -/
def offerOf (syms : List Byte) : Transfer := { sym := symbolsOnBus syms, len := BitVec.ofNat 4 syms.length }

/-- The command has not completed: it waits for the sink, driving its offer, and nothing else has happened
(20_memory.md R55, 70_reset_and_hazards.md R279). -/
def State.await (s : State) (i : Instr) (offer : Transfer) : State := { s with waiting := some { cmd := i, offer := offer } }

/-- A transfer has ended (the model's own record, log 6). -/
def State.recordTransfer (s : State) (offer : Transfer) (fate : Fate) : State :=
  { s with transfers := s.transfers ++ [{ offer := offer, fate := fate }] }

/-- `sink_xfer(S, m)` made by command `i` (41_stream_encoder.md R141): the sink's answer is the free input `now.ans` of
the step (10_state.md R23); while there is none the command waits. -/
def sinkTransfer (i : Instr) (syms : List Byte) (onAccept : State → Result) (onFail : Byte → State → Result)
    (s : State) : Result :=
  match s.now.ans with
  | none => .next (s.await i (offerOf syms))
  | some .accept => onAccept (s.recordTransfer (offerOf syms) .accepted)
  | some (.fail c) => onFail c (s.recordTransfer (offerOf syms) (.failed c))

/-- The pending bytes `ACC[0..VCNT-1]` (10_state.md R26). -/
def Seb.pending (e : Seb) : List Byte := e.acc.toList.take e.vcnt.toNat

/-- `ERRV <- 1; ERRC <- c; raise IOERR(c)` (41_stream_encoder.md R145, R149). -/
def sinkFailed (c : Byte) (s : State) : Result :=
  raise .ioerr (zextByte c) (s.withSeb { s.seb with errv := true, errc := c })

/-- Input admission, common to DPUSH, DEND and DFAIL (42_stream_decoder.md R176): CLOSED in TERM, BUSY while bytes are
queued, otherwise the registers the command's own rule gives, answered OK. -/
def admitInput (consume : Sdb → Sdb) (s : State) : Result :=
  if s.sdb.dst = .term then raise .closed 0 s
  else if s.sdb.qcnt ≠ 0 then raise .busy 0 s
  else respond .ok 0 0 (s.withSdb (consume s.sdb))

/-- The current group `SACC[0..SCNT-1]` (42_stream_decoder.md R177). -/
def Sdb.group (d : Sdb) : List Val5 := d.sacc.toList.take d.scnt.toNat

/-- QBUF with these bytes and 0x00 after them (42_stream_decoder.md R177). -/
def queueBytes (bs : List Byte) : Vector Byte 5 := #v[bs.getD 0 0, bs.getD 1 0, bs.getD 2 0, bs.getD 3 0, bs.getD 4 0]

/-- "queue the group" (42_stream_decoder.md R177). -/
def Sdb.queueGroup (d : Sdb) (vs : List Val5) : Sdb :=
  { d with qbuf := queueBytes (unpackGroup vs), qidx := 0, qcnt := BitVec.ofNat 3 (groupBytes vs.length) }

/-- Record Corrupt Input at an offset (42_stream_decoder.md R178). -/
def Sdb.corruptAt (d : Sdb) (off : Offset) : Sdb := { d with dst := .term, pst := .corrupt, poff := off }

/-- `QBUF[QIDX]` (42_stream_decoder.md R186). QIDX is at most 4 when a byte is queued (10_state.md R31); past the end,
which no run reaches, it reads 0x00 (log 9). -/
def Sdb.head (d : Sdb) : Byte := d.qbuf.toList.getD d.qidx.toNat 0

/-- The transfers' record after reset: a transfer still waiting is abandoned (70_reset_and_hazards.md R270; log 7). -/
def State.abandonWaiting (s : State) : List TransferRecord :=
  match s.waiting with
  | none => s.transfers
  | some w => s.transfers ++ [{ offer := w.offer, fate := .abandoned }]

/-- RST (70_reset_and_hazards.md R270): both units take their reset values, a waiting command is abandoned, and there is
no response. -/
def State.applyReset (s : State) : State :=
  { s with seb := Seb.reset, sdb := Sdb.reset, waiting := none, transfers := s.abandonWaiting }

end Sys2Proof.Machine
end

