-- ==== Sys2Proof/Machine/CodecCore.lean ====
section
/-! DEFINITION. The stateless commands of base32_encoder and base32_decoder: ENCQ, DECQ, ELEN, DLEN (40_codec_core.md
R107, R112, R114, R115). Each is a function of its word, OPND and the ROMs (10_state.md R25). -/

namespace Sys2Proof.Machine

/-- `ENCQ k` (40_codec_core.md R107). A length above 5 is no word of the decoder's; it is answered ILLEGAL as R76 says
(log 8). -/
def execEncq (k : BitVec 4) (s : State) : Result :=
  if k ≤ 5#4 then
    let syms := encodeQuantum (operandBytes s.now.opnd k.toNat)
    respond .ok (symbolsOnBus syms) (BitVec.ofNat 4 (encodedLength k.toNat)) s
  else answerIllegal s

/-- `DECQ j` (40_codec_core.md R112): the first invalid lane, then the lone symbol (R113), then the bytes. A length above
8 is answered ILLEGAL as R76 says (log 8). -/
def execDecq (j : BitVec 4) (s : State) : Result :=
  if j ≤ 8#4 then
    let syms := operandSymbols s.now.opnd j.toNat
    match firstInvalid syms with
    | some lane => raise .corrupt (BitVec.ofNat 64 lane) s
    | none =>
      if j = 1#4 then raise .corrupt 0 s
      else
        let bytes := unpackGroup (valuesOf syms)
        respond .ok (zextFrame (bytesOnFrame bytes)) (BitVec.ofNat 4 (groupBytes j.toNat)) s
  else answerIllegal s

/-- `ELEN` (40_codec_core.md R114). -/
def execElen (s : State) : Result := respond .ok (BitVec.ofNat 64 (encodedLength (operandCount s.now.opnd))) 0 s

/-- `DLEN` (40_codec_core.md R115). -/
def execDlen (s : State) : Result := respond .ok (BitVec.ofNat 64 (decodedLength (operandCount s.now.opnd))) 0 s

end Sys2Proof.Machine
end

