-- ==== Sys2Proof/Machine/StreamDecoder.lean ====
section
/-! DEFINITION. The commands of the streaming_decode_buffer: DPUSH, DEND, DFAIL, DREAD, DRST, DSTAT (42_stream_decoder.md
R177, R182, R184, R186, R189, R190). Input is admitted by R176 in DPUSH, DEND and DFAIL. -/

namespace Sys2Proof.Machine

/-- The final group of a message queued, if it has at least two values (42_stream_decoder.md R183). -/
def Sdb.queueFinal (d : Sdb) : Sdb := if 2#3 ≤ d.scnt then d.queueGroup d.group else d

/-- The first padding byte in RUN, consumed at offset `off` (42_stream_decoder.md R177, R180, R183). -/
def Sdb.startPadding (d : Sdb) (off : Offset) : Sdb :=
  if d.scnt = 1#3 then { d.corruptAt (off - 1) with scnt := 0 }
  else { d.queueFinal with scnt := 0, dst := .pad }

/-- A valid symbol of value v in RUN: appended, or the eighth of its group (42_stream_decoder.md R177, R179). -/
def Sdb.takeValue (d : Sdb) (v : Val5) : Sdb :=
  if d.scnt < 7#3 then { d with sacc := d.sacc.setIfInBounds d.scnt.toNat v, scnt := d.scnt + 1 }
  else { d.queueGroup (d.sacc.toList ++ [v]) with scnt := 0 }

/-- An admitted byte `b` in RUN, consumed at offset `off`: padding is recognised before the table is consulted
(42_stream_decoder.md R177, R178, 40_codec_core.md R105). -/
def Sdb.pushRun (d : Sdb) (b : Byte) (off : Offset) : Sdb :=
  if b = Config.padChar then d.startPadding off
  else
    match dt b with
    | none => { d.corruptAt off with scnt := 0 }
    | some v => d.takeValue v

/-- An admitted byte in PAD, consumed at offset `off` (42_stream_decoder.md R181). -/
def Sdb.pushPad (d : Sdb) (b : Byte) (off : Offset) : Sdb := if b = Config.padChar then d else d.corruptAt off

/-- What DPUSH does with an admitted byte (42_stream_decoder.md R177). TERM is not admitted (R176); its branch is the
pseudocode's last `else`. -/
def Sdb.push (d : Sdb) (b : Byte) : Sdb :=
  let counted := { d with soff := d.soff + 1 }
  match d.dst with
  | .run => counted.pushRun b d.soff
  | .pad => counted.pushPad b d.soff
  | .term => counted.pushPad b d.soff

/-- `DPUSH b` (42_stream_decoder.md R177). -/
def execDpush (b : Byte) (s : State) : Result := admitInput (fun d => d.push b) s

/-- What DEND does when admitted (42_stream_decoder.md R182, R183). -/
def Sdb.endInput (d : Sdb) : Sdb :=
  if d.dst = .run ∧ d.scnt = 1#3 then { d.corruptAt (d.soff - 1) with scnt := 0 }
  else { (if d.dst = .run then d.queueFinal else d) with scnt := 0, dst := .term, pst := .eof }

/-- `DEND` (42_stream_decoder.md R182). -/
def execDend (s : State) : Result := admitInput Sdb.endInput s

/-- `DFAIL c` (42_stream_decoder.md R184): the unfinished group is discarded (R185). -/
def execDfail (c : Byte) (s : State) : Result :=
  admitInput (fun d => { d with scnt := 0, dst := .term, pst := .ioerr, perr := c }) s

/-- `DREAD` (42_stream_decoder.md R186): a queued byte first, then AGAIN, then the recorded terminal status, which stays
recorded (R187). With DST = TERM, PST is not NONE (10_state.md R31); the pseudocode's last `else` covers both other
values. -/
def execDread (s : State) : Result :=
  if s.sdb.qcnt ≠ 0 then
    respond .ok (zextByte s.sdb.head) 1
      (s.withSdb { s.sdb with qidx := s.sdb.qidx + 1, qcnt := s.sdb.qcnt - 1 })
  else if s.sdb.dst ≠ .term then respond .again 0 0 s
  else
    match s.sdb.pst with
    | .eof => respond .eof 0 0 s
    | .corrupt => respond .corrupt s.sdb.poff 0 s
    | .ioerr => respond .ioerr (zextByte s.sdb.perr) 0 s
    | .none => respond .ioerr (zextByte s.sdb.perr) 0 s

/-- `DRST` (42_stream_decoder.md R189): every SDB register to its reset value. -/
def execDrst (s : State) : Result := respond .ok 0 0 (s.withSdb Sdb.reset)

/-- `DSTAT` (42_stream_decoder.md R190). -/
def execDstat (s : State) : Result := respond .ok s.sdb.dsr 0 s

end Sys2Proof.Machine
end

