-- ==== Sys2Proof/Machine/StreamEncoder.lean ====
section
/-! DEFINITION. The commands of the streaming_encode_buffer: EWRITE, ECLOSE, ERST, ESTAT (41_stream_encoder.md R143, R147,
R151, R152). The sticky error is checked first in EWRITE and ECLOSE (R142, 60_exceptions.md R247). -/

namespace Sys2Proof.Machine

/-- `ACC[VCNT] <- b; VCNT <- VCNT + 1` (41_stream_encoder.md R143). -/
def Seb.absorb (e : Seb) (b : Byte) : Seb :=
  { e with acc := e.acc.setIfInBounds e.vcnt.toNat b, vcnt := e.vcnt + 1 }

/-- `EWRITE b` (41_stream_encoder.md R143 to R146). -/
def execEwrite (b : Byte) (s : State) : Result :=
  if s.seb.errv then raise .ioerr (zextByte s.seb.errc) s
  else if s.seb.closed then raise .closed 0 s
  else if s.seb.vcnt < 4#3 then respond .ok 0 0 (s.withSeb (s.seb.absorb b))
  else
    sinkTransfer (.ewrite b) (encodeQuantum (s.seb.pending ++ [b]))
      (fun t => respond .ok 0 0 (t.withSeb { t.seb with vcnt := 0 }))
      sinkFailed s

/-- `ECLOSE` (41_stream_encoder.md R147 to R150). -/
def execEclose (s : State) : Result :=
  if s.seb.errv then raise .ioerr (zextByte s.seb.errc) s
  else if s.seb.closed then respond .ok 0 0 s
  else if s.seb.vcnt = 0 then respond .ok 0 0 (s.withSeb { s.seb with closed := true })
  else
    sinkTransfer .eclose (encodeQuantum s.seb.pending)
      (fun t => respond .ok 0 0 (t.withSeb { t.seb with vcnt := 0, closed := true }))
      sinkFailed s

/-- `ERST` (41_stream_encoder.md R151): every SEB register to its reset value. -/
def execErst (s : State) : Result := respond .ok 0 0 (s.withSeb Seb.reset)

/-- `ESTAT` (41_stream_encoder.md R152). -/
def execEstat (s : State) : Result := respond .ok s.seb.esr 0 s

end Sys2Proof.Machine
end

