-- ==== Sys2Proof/Machine/Dispatch.lean ====
section
/-! DEFINITION. exec: one arm per command, each a direct call of its meaning. -/

namespace Sys2Proof.Machine

/-- The effect of one command (30_encoding.md R75 names each command's rule). -/
def exec (i : Instr) (s : State) : Host.Outcome State Fault Refusal :=
  match i with
  | .encq k => Sys2Proof.Machine.execEncq k s
  | .decq j => Sys2Proof.Machine.execDecq j s
  | .elen => Sys2Proof.Machine.execElen s
  | .dlen => Sys2Proof.Machine.execDlen s
  | .ewrite b => Sys2Proof.Machine.execEwrite b s
  | .eclose => Sys2Proof.Machine.execEclose s
  | .erst => Sys2Proof.Machine.execErst s
  | .estat => Sys2Proof.Machine.execEstat s
  | .dpush b => Sys2Proof.Machine.execDpush b s
  | .dend => Sys2Proof.Machine.execDend s
  | .dfail c => Sys2Proof.Machine.execDfail c s
  | .dread => Sys2Proof.Machine.execDread s
  | .drst => Sys2Proof.Machine.execDrst s
  | .dstat => Sys2Proof.Machine.execDstat s

end Sys2Proof.Machine
end

