-- ==== Sys2Proof/WellFormed.lean ====
section
/-! DEFINITION. Which commands a word can spell: the ARG ranges of 30_encoding.md R74 and R76 step 4. The other operand
fields fill their bits exactly, so every value of theirs is legal. -/

namespace Sys2Proof

/-- The ARG range checks of 30_encoding.md R76 step 4: k is 0 to 5 and j is 0 to 8. -/
def Instr.wellFormed : Instr → Bool
  | .encq k => decide (k ≤ 5#4)
  | .decq j => decide (j ≤ 8#4)
  | .elen => true
  | .dlen => true
  | .ewrite _ => true
  | .eclose => true
  | .erst => true
  | .estat => true
  | .dpush _ => true
  | .dend => true
  | .dfail _ => true
  | .dread => true
  | .drst => true
  | .dstat => true

end Sys2Proof
end

