-- ==== Sys2Proof/Decode.lean ====
section
/-! DEFINITION. The command word of 30_encoding.md: the total decoder of R76, which rejects by name, and the encoder
written from the opcode map of R75. -/

namespace Sys2Proof

/-- Why a word spells no command, in the order 30_encoding.md R76 checks (its steps 1 to 4). -/
inductive Illegal where
  /-- Step 1: OP is 0x0 or 0xF. -/
  | reservedOp
  /-- Step 2: format B, N or L with ARG not zero. -/
  | argNotZero
  /-- Step 3: format Q, N or L with DATA not zero. -/
  | dataNotZero
  /-- Step 4: ENCQ with ARG above 5, DECQ with ARG above 8. -/
  | lengthOutOfRange
deriving DecidableEq, Repr

/-- `OP`, bits [15:12] (30_encoding.md R70). -/
def opField (w : CmdWord) : BitVec 4 := w.extractLsb' 12 4

/-- `ARG`, bits [11:8] (30_encoding.md R70). -/
def argField (w : CmdWord) : BitVec 4 := w.extractLsb' 8 4

/-- `DATA`, bits [7:0] (30_encoding.md R70). -/
def dataField (w : CmdWord) : Byte := w.extractLsb' 0 8

/-- The command OP selects, with its operand fields (30_encoding.md R74, R75); none for the two reserved values of OP. -/
def commandOf (op arg : BitVec 4) (data : Byte) : Option Instr :=
  match op.toNat with
  | 0x1 => some (.encq arg)
  | 0x2 => some (.decq arg)
  | 0x3 => some .elen
  | 0x4 => some .dlen
  | 0x5 => some (.ewrite data)
  | 0x6 => some .eclose
  | 0x7 => some .erst
  | 0x8 => some .estat
  | 0x9 => some (.dpush data)
  | 0xA => some .dend
  | 0xB => some (.dfail data)
  | 0xC => some .dread
  | 0xD => some .drst
  | 0xE => some .dstat
  | _ => none

/-- Decoding a word, total over all 65536 words, with the checks in the order of 30_encoding.md R76. -/
def decode (w : CmdWord) : Except Illegal Instr :=
  match commandOf (opField w) (argField w) (dataField w) with
  | none => .error .reservedOp
  | some i =>
    if i.format ≠ .q ∧ argField w ≠ 0 then .error .argNotZero
    else if i.format ≠ .b ∧ dataField w ≠ 0 then .error .dataNotZero
    else if i.wellFormed then .ok i
    else .error .lengthOutOfRange

/-- The OP value of a command (30_encoding.md R75). -/
def opcodeOf : Instr → BitVec 4
  | .encq _ => 0x1
  | .decq _ => 0x2
  | .elen => 0x3
  | .dlen => 0x4
  | .ewrite _ => 0x5
  | .eclose => 0x6
  | .erst => 0x7
  | .estat => 0x8
  | .dpush _ => 0x9
  | .dend => 0xA
  | .dfail _ => 0xB
  | .dread => 0xC
  | .drst => 0xD
  | .dstat => 0xE

/-- The ARG field of a command (30_encoding.md R70, R74). -/
def argOf : Instr → BitVec 4
  | .encq k => k
  | .decq j => j
  | .elen => 0
  | .dlen => 0
  | .ewrite _ => 0
  | .eclose => 0
  | .erst => 0
  | .estat => 0
  | .dpush _ => 0
  | .dend => 0
  | .dfail _ => 0
  | .dread => 0
  | .drst => 0
  | .dstat => 0

/-- The DATA field of a command (30_encoding.md R70, R74). -/
def dataOf : Instr → Byte
  | .encq _ => 0
  | .decq _ => 0
  | .elen => 0
  | .dlen => 0
  | .ewrite b => b
  | .eclose => 0
  | .erst => 0
  | .estat => 0
  | .dpush s => s
  | .dend => 0
  | .dfail c => c
  | .dread => 0
  | .drst => 0
  | .dstat => 0

/-- The word of a command: `CMD = {OP, ARG, DATA}` (30_encoding.md R70). -/
def encode (i : Instr) : CmdWord := opcodeOf i ++ argOf i ++ dataOf i

/-- The instruction the decoder reads from a word given as a number, as the opcode table numbers its bits (one 16-bit
word, 30_encoding.md R70). A row of more than 16 bits is no command (log 14). -/
def decodeTableWord (nbits w : Nat) : Option Instr :=
  if nbits ≤ 16 then
    match decode (BitVec.ofNat 16 (w % 2 ^ nbits)) with
    | .ok i => some i
    | .error _ => none
  else none

end Sys2Proof
end

