-- ==== Sys2Proof/Machine/Port.lean ====
section
/-! DEFINITION. What a step does with the input pins (10_state.md R35): take the next input record, and select reset, the
waiting command, the presented command, an illegal word, or nothing (30_encoding.md R76, 70_reset_and_hazards.md R270,
R279). -/

namespace Sys2Proof.Machine

/-- What the pins of one step make the block do. -/
inductive Selected where
  /-- RST is asserted. -/
  | reset
  /-- A command runs: the one waiting for the sink, or the one presented. -/
  | run (i : Instr)
  /-- The presented word spells no command. -/
  | illegal
  /-- No command waits and none is presented. -/
  | idle
deriving DecidableEq, Repr

/-- Take the next input record onto the pins; `none` when nothing more is to come. -/
def State.takeInput (s : State) : Option State :=
  match s.script with
  | [] => none
  | p :: rest => some { s with now := p, script := rest }

/-- What a presented word makes the block do (30_encoding.md R76). -/
def selectWord (w : CmdWord) : Selected :=
  match decode w with
  | .ok i => .run i
  | .error _ => .illegal

/-- Reset first, and the command presented with it is not taken (70_reset_and_hazards.md R270); then the waiting command,
while which no other is accepted (R279; log 5); then the presented command. -/
def State.select (s : State) : Selected :=
  if s.now.rst then .reset
  else
    match s.waiting with
    | some w => .run w.cmd
    | none =>
      match s.now.cmd with
      | some w => selectWord w
      | none => .idle

/-- The input record that presents a word with the pins otherwise as they are and RST low. -/
def State.presenting (s : State) (w : CmdWord) : PortInput := { s.now with rst := false, cmd := some w }

/-- The word that a number of `nbits` bits stands for (one 16-bit word, 30_encoding.md R70). -/
def wordOfTable (nbits w : Nat) : CmdWord := BitVec.ofNat 16 (w % 2 ^ nbits)

end Sys2Proof.Machine
end

