-- ==== Sys2Proof/Machine/Step.lean ====
section
/-! DEFINITION. One step: one input record is taken, and the block makes the one transaction it asks for (20_memory.md R55,
70_reset_and_hazards.md R285). The block fetches nothing (10_state.md R21): a command comes from the host's next input
record. -/

namespace Sys2Proof.Machine

/-- What a step does once the input record is on the pins. -/
def stepInput (s : State) : Host.Outcome State Fault Refusal :=
  match s.select with
  | .reset => .next s.applyReset
  | .run i => exec i s
  | .illegal => answerIllegal s
  | .idle => .next s

/-- One step. With no input record left nothing happens (log 4): the run has ended, or hangs on a sink that never answers
(70_reset_and_hazards.md R279, R284). -/
def step (s : State) : Host.Outcome State Fault Refusal :=
  match s.takeInput with
  | none => .next s
  | some t => stepInput t

/-- `s` with the word presented as the host's next command, so that the next step runs it: the record is put before the
inputs to come, with OPND and SNK_ANS as they stand on the pins, and no command waits (log 14). -/
def State.withFetchWord (s : State) (nbits w : Nat) : State :=
  { s with waiting := none, script := s.presenting (wordOfTable nbits w) :: s.script }

end Sys2Proof.Machine
end

