-- ==== Sys2Proof/Machine/Sequence.lean ====
section
/-! DEFINITION. The whole-sequence functions of 43_sequence_level.md: Encode (R210), Decode (R215), and the letter maps its
properties use (R217, R218, R219). Strings are byte sequences here (R214). -/

namespace Sys2Proof.Machine

/-- `Encode(b)`: quanta of 5 bytes, then the partial quantum (43_sequence_level.md R210). -/
def encodeSeq : List Byte → List Byte
  | b0 :: b1 :: b2 :: b3 :: b4 :: rest => encodeQuantum [b0, b1, b2, b3, b4] ++ encodeSeq rest
  | short => encodeQuantum short

/-- The status of a whole decode (43_sequence_level.md R215). -/
inductive Verdict where
  /-- Success, at the end of the input. -/
  | ok
  /-- Corrupt Input at this offset. -/
  | corrupt (off : Nat)
deriving DecidableEq, Repr

/-- The loop of `Decode` (43_sequence_level.md R215): `off` is the next byte's offset, `padded` says whether the state is
PAD, `grp` is the current group and `out` the bytes so far. -/
def decodeFrom (off : Nat) (padded : Bool) (grp : List Val5) (out : List Byte) : List Byte → Verdict × List Byte
  | [] =>
    if padded then (.ok, out)
    else if grp.length = 1 then (.corrupt (off - 1), out)
    else (.ok, out ++ unpackGroup grp)
  | c :: rest =>
    if padded then
      if c = Config.padChar then decodeFrom (off + 1) true grp out rest else (.corrupt off, out)
    else if c = Config.padChar then
      if grp.length = 1 then (.corrupt (off - 1), out)
      else decodeFrom (off + 1) true [] (out ++ unpackGroup grp) rest
    else
      match dt c with
      | none => (.corrupt off, out)
      | some v =>
        if grp.length = 7 then decodeFrom (off + 1) false [] (out ++ unpackGroup (grp ++ [v])) rest
        else decodeFrom (off + 1) false (grp ++ [v]) out rest

/-- `Decode(s)`: the status and the bytes delivered before it (43_sequence_level.md R215). -/
def decodeSeq (s : List Byte) : Verdict × List Byte := decodeFrom 0 false [] [] s

/-- `uppercase`: 0x61..0x7A to 0x41..0x5A, every other byte unchanged (43_sequence_level.md R218). -/
def uppercase (b : Byte) : Byte := if 0x61#8 ≤ b ∧ b ≤ 0x7A#8 then b - 0x20 else b

/-- Aliases to their canonical symbols: `O`, `o` to `0` and `I`, `i`, `L`, `l` to `1` (43_sequence_level.md R219). -/
def foldAlias (b : Byte) : Byte :=
  if b = 0x4F#8 ∨ b = 0x6F#8 then 0x30
  else if b = 0x49#8 ∨ b = 0x69#8 ∨ b = 0x4C#8 ∨ b = 0x6C#8 then 0x31
  else b

/-- `canonicalize`: uppercase the letters and resolve the aliases (43_sequence_level.md R217). -/
def canonicalize (b : Byte) : Byte := foldAlias (uppercase b)

end Sys2Proof.Machine
end

