-- ==== Sys2Proof/Machine/HostSequences.lean ====
section
/-! DEFINITION. The host sequences of 43_sequence_level.md: write (R211), read (R212) and close (R213), and the
pseudo-instructions EWRITES and DPUSHS (30_encoding.md R79). Each issues commands through step; none is a command. The
sink of these sequences answers every transfer: `sink n` is its answer to the n-th one (log 17). -/

namespace Sys2Proof.Machine

/-- The input record by which the host issues a command. -/
def inputOf (i : Instr) (opnd : Bus) (ans : Option SinkAnswer) : PortInput :=
  { rst := false, cmd := some (encode i), opnd := opnd, ans := ans }

/-- The host issues one command now: the state after the step, and the response the step drove. While a command waits the
port accepts no other and the host issues none (70_reset_and_hazards.md R279, R282). -/
def issue (i : Instr) (sink : Nat → SinkAnswer) (s : State) : Option (Response × State) :=
  if s.waiting.isSome then none
  else
  match step { s with script := inputOf i 0 (some (sink s.transfers.length)) :: s.script } with
  | .next t =>
    match t.responses.getLast? with
    | some r => some (r, t)
    | none => none
  | .fault _ => none
  | .refused _ => none

/-- What a host call returns: a count, the response it ends with, and the state. -/
structure CallResult where
  count : Nat
  response : Response
  state : State
deriving DecidableEq, Repr

/-- The response of a call that ends well. -/
def okResponse : Response := { rsp := .ok, res := 0, rlen := 0 }

/-- The loop of `write`: one EWRITE a byte, stopping at the first response that is not OK (43_sequence_level.md R211;
EWRITES of 30_encoding.md R79). -/
def writeFrom (sink : Nat → SinkAnswer) (n : Nat) (s : State) : List Byte → Option CallResult
  | [] => some { count := n, response := okResponse, state := s }
  | b :: rest =>
    match issue (.ewrite b) sink s with
    | none => none
    | some (r, t) =>
      if r.rsp = .ok then writeFrom sink (n + 1) t rest else some { count := n, response := r, state := t }

/-- An empty write re-reports the stored status read by ESTAT (43_sequence_level.md R211). -/
def emptyWrite (sink : Nat → SinkAnswer) (s : State) : Option CallResult :=
  match issue .estat sink s with
  | none => none
  | some (r, t) =>
    if r.res.getLsbD 4 then
      some { count := 0, response := { rsp := .ioerr, res := zextByte (r.res.extractLsb' 8 8), rlen := 0 }, state := t }
    else if r.res.getLsbD 3 then some { count := 0, response := { rsp := .closed, res := 0, rlen := 0 }, state := t }
    else some { count := 0, response := okResponse, state := t }

/-- Host `write(p)` (43_sequence_level.md R211). -/
def hostWrite (sink : Nat → SinkAnswer) (p : List Byte) (s : State) : Option CallResult :=
  match p with
  | [] => emptyWrite sink s
  | b :: rest => writeFrom sink 0 s (b :: rest)

/-- Host `close()`: one ECLOSE, and its status (43_sequence_level.md R213). -/
def hostClose (sink : Nat → SinkAnswer) (s : State) : Option CallResult :=
  match issue .eclose sink s with
  | none => none
  | some (r, t) => some { count := 0, response := r, state := t }

/-- DPUSHS: one DPUSH a byte, each only after OK (30_encoding.md R79); the count is the bytes consumed. -/
def pushFrom (sink : Nat → SinkAnswer) (n : Nat) (s : State) : List Byte → Option CallResult
  | [] => some { count := n, response := okResponse, state := s }
  | b :: rest =>
    match issue (.dpush b) sink s with
    | none => none
    | some (r, t) =>
      if r.rsp = .ok then pushFrom sink (n + 1) t rest else some { count := n, response := r, state := t }

/-- What a source yields, one event at a time (43_sequence_level.md R212). -/
inductive SourceEvent where
  | byte (x : Byte)
  | finish
  | failure (c : Byte)
deriving DecidableEq, Repr

/-- The command by which the host delivers a source event (43_sequence_level.md R212). -/
def SourceEvent.command : SourceEvent → Instr
  | .byte x => .dpush x
  | .finish => .dend
  | .failure c => .dfail c

/-- What `read` returns: the bytes in the caller's buffer (their number is the count), the response it ends with, what is
left of the source, and the state. -/
structure ReadResult where
  bytes : List Byte
  response : Response
  source : List SourceEvent
  state : State
deriving DecidableEq, Repr

/-- The loop of `read` for `want` bytes (43_sequence_level.md R212). It answers none when the source yields nothing more,
or when `fuel` DREADs do not end it. -/
def readFrom (sink : Nat → SinkAnswer) (want : Nat) (fuel : Nat) (buf : List Byte) (src : List SourceEvent)
    (s : State) : Option ReadResult :=
  match fuel with
  | 0 => none
  | fuel + 1 =>
    match issue .dread sink s with
    | none => none
    | some (r, t) =>
      if r.rsp = .ok then
        let full := buf ++ [r.res.setWidth 8]
        if full.length = want then some { bytes := full, response := okResponse, source := src, state := t }
        else readFrom sink want fuel full src t
      else if r.rsp = .again then
        match src with
        | [] => none
        | e :: rest =>
          match issue e.command sink t with
          | none => none
          | some (_, u) => readFrom sink want fuel buf rest u
      else if buf = [] then some { bytes := [], response := r, source := src, state := t }
      else some { bytes := buf, response := okResponse, source := src, state := t }

/-- Host `read(L)` (43_sequence_level.md R212): every DREAD but the last delivers a byte or takes a source event, which
bounds the loop. -/
def hostRead (sink : Nat → SinkAnswer) (want : Nat) (src : List SourceEvent) (s : State) : Option ReadResult :=
  if want = 0 then some { bytes := [], response := okResponse, source := src, state := s }
  else readFrom sink want (want + src.length + 1) [] src s

/-- `read(L)` repeated until a call returns no byte (43_sequence_level.md R224): all the bytes delivered, and that last
call's response. -/
def readAll (sink : Nat → SinkAnswer) (want : Nat) (calls : Nat) (got : List Byte) (src : List SourceEvent)
    (s : State) : Option ReadResult :=
  match calls with
  | 0 => none
  | calls + 1 =>
    match hostRead sink want src s with
    | none => none
    | some r =>
      if r.bytes = [] then some { r with bytes := got }
      else readAll sink want calls (got ++ r.bytes) r.source r.state

/-- Reads of these sizes one after another, each from where the one before it ended: what each of them returns. -/
def hostReads (sink : Nat → SinkAnswer) (src : List SourceEvent) (s : State) : List Nat → Option (List ReadResult)
  | [] => some []
  | want :: wants =>
    match hostRead sink want src s with
    | none => none
    | some r =>
      match hostReads sink r.source r.state wants with
      | none => none
      | some rs => some (r :: rs)

/-- A source that yields these bytes and then the end. -/
def sourceOf (bytes : List Byte) : List SourceEvent := bytes.map .byte ++ [.finish]

end Sys2Proof.Machine
end

