-- ==== Sys2Proof/Machine/Runs.lean ====
section
/-! DEFINITION. Runs of the block (70_reset_and_hazards.md R284): its steps, when a run ends or hangs, its result, which
command each response answers, and when an encode run or a decode run ended well. -/

namespace Sys2Proof.Machine

/-- `n` steps, stopping at the first that answers no next state. -/
def runSteps : Nat → State → Result
  | 0, s => .next s
  | n + 1, s =>
    match step s with
    | .next t => runSteps n t
    | .fault r => .fault r
    | .refused r => .refused r

/-- A run ends when the host has nothing more to issue and no command waits (70_reset_and_hazards.md R284). -/
def State.runEnded (s : State) : Bool := s.script.isEmpty && s.waiting.isNone

/-- A run hangs when a command waits and no answer will come (70_reset_and_hazards.md R279, R284). -/
def State.hangs (s : State) : Bool := s.script.isEmpty && s.waiting.isSome

/-- The first m symbols of a transfer. -/
def Transfer.symbols (t : Transfer) : List Byte := operandSymbols t.sym t.len.toNat

/-- The symbols the sink accepted in a transfer that ended: all of an accepted one (41_stream_encoder.md R141). A failed and
an abandoned transfer are not accepted; what a sink kept of one is not said (70_reset_and_hazards.md R270, R284). -/
def TransferRecord.taken (r : TransferRecord) : List Byte :=
  match r.fate with
  | .accepted => r.offer.symbols
  | .failed _ => []
  | .abandoned => []

/-- The encoded stream: the accepted transfers in order (20_memory.md R59, 41_stream_encoder.md R153). -/
def State.acceptedSymbols (s : State) : List Byte := s.transfers.flatMap TransferRecord.taken

/-- One response and the command it answers; none for a word that spells no command (30_encoding.md R73, R76). -/
structure Exchange where
  cmd : Option Instr
  response : Response
deriving DecidableEq, Repr

/-- The command that the pins make the block run, if they do. -/
def Selected.command : Selected → Option Instr
  | .reset => none
  | .run i => some i
  | .illegal => none
  | .idle => none

/-- What the step from `s` to `t` answered, and to which command: the presented one, or the one that waited. -/
def exchangeOf (s t : State) : List Exchange :=
  match s.takeInput with
  | none => []
  | some u => (t.responses.drop s.responses.length).map fun r => { cmd := u.select.command, response := r }

/-- The exchanges of `n` steps, oldest first. -/
def exchanges : Nat → State → List Exchange
  | 0, _ => []
  | n + 1, s =>
    match step s with
    | .next t => exchangeOf s t ++ exchanges n t
    | .fault _ => []
    | .refused _ => []

/-- The last response to a command of this kind in a run, if it was answered at all. -/
def lastAnswer (i : Instr) (es : List Exchange) : Option Response :=
  ((es.filter fun e => e.cmd = some i).getLast?).map Exchange.response

/-- The bytes a DREAD delivered in a run, in order (42_stream_decoder.md R186). -/
def deliveredBytes (es : List Exchange) : List Byte :=
  es.filterMap fun e => if e.cmd = some .dread ∧ e.response.rsp = .ok then some (e.response.res.setWidth 8) else none

/-- The result of a run (70_reset_and_hazards.md R284): the responses the host received, the symbols the sink accepted, and
the final registers. -/
structure RunResult where
  responses : List Response
  accepted : List Byte
  seb : Seb
  sdb : Sdb
deriving DecidableEq, Repr

/-- The result of a run from `s` to `t`. -/
def runResult (s t : State) : RunResult :=
  { responses := t.responses.drop s.responses.length
    accepted := (t.transfers.drop s.transfers.length).flatMap TransferRecord.taken
    seb := t.seb
    sdb := t.sdb }

/-- Whether a response is one of the three terminal statuses of a decode (70_reset_and_hazards.md R284). -/
def Response.isTerminal (r : Response) : Bool :=
  match r.rsp with
  | .ok => false
  | .again => false
  | .busy => false
  | .eof => true
  | .corrupt => true
  | .ioerr => true
  | .closed => false
  | .illegal => false

/-- An encode run of `n` steps from `s` ended well: the run has ended, and its last ECLOSE answered OK
(70_reset_and_hazards.md R284). -/
def EncodeEndedWell (n : Nat) (s : State) : Prop :=
  ∃ t r, runSteps n s = .next t ∧ t.runEnded = true ∧ lastAnswer .eclose (exchanges n s) = some r ∧ r.rsp = .ok

/-- A decode run of `n` steps from `s` ended well: the run has ended, no byte is left to deliver, and the last DREAD
answered EOF, CORRUPT or IOERR (70_reset_and_hazards.md R284; "after the last byte" read so, log 22). -/
def DecodeEndedWell (n : Nat) (s : State) : Prop :=
  ∃ t r, runSteps n s = .next t ∧ t.runEnded = true ∧ t.sdb.qcnt = 0 ∧
    lastAnswer .dread (exchanges n s) = some r ∧ r.isTerminal = true

end Sys2Proof.Machine
end

