-- ==== Sys2Proof/Safety.lean ====
section
/-! DEFINITION. What claims about runs are stated in: the invariants of 10_state.md R27 and R31, the wait for the sink
(20_memory.md R55), and the scripts of a whole encode and a whole decode. How a run ends is in Machine/Runs.lean. -/

namespace Sys2Proof.Machine

/-- The invariants of the encode buffer (10_state.md R27). -/
abbrev Seb.Inv (e : Seb) : Prop :=
  e.vcnt ≤ 4#3 ∧ (e.closed = true → e.vcnt = 0) ∧ (e.errv = false → e.errc = 0)

/-- The invariants of the decode buffer (10_state.md R31); that DST is never 3 (R30) is its type's. -/
abbrev Sdb.Inv (d : Sdb) : Prop :=
  (d.pst = .none ↔ d.dst ≠ .term) ∧ (d.dst ≠ .run → d.scnt = 0) ∧ d.qidx.toNat + d.qcnt.toNat ≤ 5

/-- The transfer that a command makes in this state, if it makes one (41_stream_encoder.md R143, R147). -/
def transferOf (i : Instr) (e : Seb) : Option Transfer :=
  if e.errv || e.closed then none
  else
    match i with
    | .ewrite b => if e.vcnt = 4#3 then some (offerOf (encodeQuantum (e.pending ++ [b]))) else none
    | .eclose => if e.vcnt = 0 then none else some (offerOf (encodeQuantum e.pending))
    | .encq _ => none
    | .decq _ => none
    | .elen => none
    | .dlen => none
    | .erst => none
    | .estat => none
    | .dpush _ => none
    | .dend => none
    | .dfail _ => none
    | .dread => none
    | .drst => none
    | .dstat => none

/-- A command waits only for a transfer that it makes, and drives that transfer (20_memory.md R55, 41_stream_encoder.md
R141). -/
abbrev State.WaitOk (s : State) : Prop :=
  ∀ w ∈ s.waiting, transferOf w.cmd s.seb = some w.offer

/-- The invariant of the whole block. -/
abbrev State.Inv (s : State) : Prop := s.seb.Inv ∧ s.sdb.Inv ∧ s.WaitOk

/-- Lane i of a 64-bit bus as a number, bits [63-8i : 56-8i] (00_scope.md R10). -/
def laneNat (w : Bus) (i : Nat) : Nat := w.toNat / 2 ^ (56 - 8 * i) % 256

/-- Entry i of a list of words as a number, 0 past its end. -/
def entryNat {n : Nat} (l : List (BitVec n)) (i : Nat) : Nat := (l.getD i 0).toNat

/-- The 5-bit fields of a quantum, written per byte (the eight lines of 40_codec_core.md R106; `b i` is the byte B'i). -/
def fieldByLines (b : Nat → Nat) : Nat → Nat
  | 0 => b 0 / 8
  | 1 => b 0 % 8 * 4 + b 1 / 64
  | 2 => b 1 / 2 % 32
  | 3 => b 1 % 2 * 16 + b 2 / 16
  | 4 => b 2 % 16 * 2 + b 3 / 128
  | 5 => b 3 / 4 % 32
  | 6 => b 3 % 4 * 8 + b 4 / 32
  | 7 => b 4 % 32
  | _ => 0

/-- The bytes of a group, written per byte (the five lines of 40_codec_core.md R109; `v i` is the value v[i]). -/
def byteByLines (v : Nat → Nat) : Nat → Nat
  | 0 => v 0 * 8 + v 1 / 4
  | 1 => v 1 % 4 * 64 + v 2 * 2 + v 3 / 16
  | 2 => v 3 % 16 * 16 + v 4 / 2
  | 3 => v 4 % 2 * 128 + v 5 * 4 + v 6 / 8
  | 4 => v 6 % 8 * 32 + v 7
  | _ => 0

/-- The symbols of the k bytes `b 0 … b (k-1)` stand on the bus, the other lanes are 0x00 (40_codec_core.md R106, R107). -/
def CarriesSymbols (w : Bus) (k : Nat) (b : Nat → Nat) : Prop :=
  ∀ i < 8, laneNat w i =
    if i < (k * 8 + 4) / 5 then (alpha (BitVec.ofNat 5 (fieldByLines (fun m => if m < k then b m else 0) i))).toNat else 0

/-- The j values `v 0 … v (j-1)` unpacked are the bytes `out 0 … out 4`, 0 past the last (40_codec_core.md R109, R111). -/
def CarriesBytes (out : Nat → Nat) (j : Nat) (v : Nat → Nat) : Prop :=
  ∀ i < 5, out i = if i < 5 * j / 8 then byteByLines (fun m => if m < j then v m else 0) i else 0

/-- The bytes waiting in the queue, `QBUF[QIDX .. QIDX+QCNT-1]` (10_state.md R31). -/
def Sdb.queued (d : Sdb) : List Byte := (d.qbuf.toList.drop d.qidx.toNat).take d.qcnt.toNat

/-- Two encode buffers that differ at most in entries of ACC no rule reads (10_state.md R27). -/
def Seb.Alike (e f : Seb) : Prop :=
  e.vcnt = f.vcnt ∧ e.closed = f.closed ∧ e.errv = f.errv ∧ e.errc = f.errc ∧ e.pending = f.pending

/-- Two decode buffers that differ at most in entries of SACC and QBUF no rule reads (10_state.md R31) and in POFF while
it is not valid (R29). PERR is in DSR (R32), so it is not among them. -/
def Sdb.Alike (d e : Sdb) : Prop :=
  d.scnt = e.scnt ∧ d.group = e.group ∧ d.qidx = e.qidx ∧ d.qcnt = e.qcnt ∧ d.queued = e.queued ∧
  d.dst = e.dst ∧ d.pst = e.pst ∧ (d.pst = .corrupt → d.poff = e.poff) ∧ d.perr = e.perr ∧ d.soff = e.soff

/-- Two machines alike in everything a rule reads, with the same pins. -/
def State.Alike (s t : State) : Prop :=
  s.seb.Alike t.seb ∧ s.sdb.Alike t.sdb ∧ s.waiting = t.waiting ∧ s.now = t.now

/-- The same responses and the same sink transfers were added. -/
def SamePorts (s s' t t' : State) : Prop :=
  ∃ rs ts, s'.responses = s.responses ++ rs ∧ t'.responses = t.responses ++ rs ∧
    s'.transfers = s.transfers ++ ts ∧ t'.transfers = t.transfers ++ ts

/-- What the next step will run is neither a reset nor this command. -/
def State.nextIsNot (s : State) (i : Instr) : Prop :=
  ∀ u, s.takeInput = some u → u.select ≠ .reset ∧ u.select ≠ .run i

/-- How a sink answers one transfer: after how many steps, and what (41_stream_encoder.md R141, 20_memory.md R55). -/
structure SinkDelay where
  waits : Nat
  answer : SinkAnswer
deriving DecidableEq, Repr

/-- The input records of one command and of its sink's answer: the command's own, without an answer if the sink takes
longer, then the steps that pass, the last of them with the answer. A command that makes no transfer does not wait for
them. -/
def commandRecords (i : Instr) (d : SinkDelay) : List PortInput :=
  match d.waits with
  | 0 => [inputOf i 0 (some d.answer)]
  | n + 1 => inputOf i 0 none :: (List.replicate n PortInput.idle ++ [{ PortInput.idle with ans := some d.answer }])

/-- The host's script for a whole encode: an EWRITE for each byte and then ECLOSE, each with its sink's answer
(41_stream_encoder.md R153). -/
def encodeScript (writes : List (Byte × SinkDelay)) (atClose : SinkDelay) : List PortInput :=
  writes.flatMap (fun p => commandRecords (.ewrite p.1) p.2) ++ commandRecords .eclose atClose

/-- One command that reads no operand and makes no transfer. -/
def plainInput (i : Instr) : PortInput := inputOf i 0 none

/-- The host's script for a whole decode: each byte delivered and the queue drained after it, at most five DREADs, then the
end of the source, its last group drained, and the terminal status taken (43_sequence_level.md R215,
70_reset_and_hazards.md R275). -/
def decodeScript (bytes : List Byte) : List PortInput :=
  bytes.flatMap (fun b => plainInput (.dpush b) :: List.replicate 5 (plainInput .dread)) ++
    plainInput .dend :: List.replicate 6 (plainInput .dread)

/-- Every chunk in turn through `write`, each required to be taken whole with OK (43_sequence_level.md R223). -/
def writeChunks (sink : Nat → SinkAnswer) (s : State) : List (List Byte) → Option State
  | [] => some s
  | p :: rest =>
    match hostWrite sink p s with
    | none => none
    | some r => if r.count = p.length ∧ r.response.rsp = .ok then writeChunks sink r.state rest else none

/-- A sink that accepts every transfer. -/
def acceptAll : Nat → SinkAnswer := fun _ => .accept

/-- The response that reports a whole decode's status (43_sequence_level.md R224: EOF for OK; 60_exceptions.md R241). -/
def Verdict.response : Verdict → Response
  | .ok => { rsp := .eof, res := 0, rlen := 0 }
  | .corrupt off => { rsp := .corrupt, res := BitVec.ofNat 64 off, rlen := 0 }

end Sys2Proof.Machine
end

