-- ==== Sys2Proof/Certificates/Slice0/Obligations.lean ====
section
/-! DEFINITION. The statements about base32_core for the provers. Each docstring names the rule of spec/ it formalises, or
says that it is derived and from what. A statement about `exec` gives the whole next state, so it is its own frame. -/

open Sys2Proof Sys2Proof.Machine

/-! ### Words and commands -/

/-- Every well-formed command decodes from its own word (derived from 30_encoding.md R70, R74, R75, R76). -/
def Obligations.DecodeOfEncode : Prop :=
  ∀ i : Instr, i.wellFormed = true → decode (encode i) = .ok i

/-- A word that decodes is the word of the command it decodes to, and that command is well formed: each legal word has one
meaning and no other word has one (derived from 30_encoding.md R75, R77). -/
def Obligations.EncodeOfDecode : Prop :=
  ∀ (w : CmdWord) (i : Instr), decode w = .ok i → encode i = w ∧ i.wellFormed = true

/-- 30_encoding.md R76 and R74 over all words, the fields read as numbers: the four checks in their order, the command of
R75 otherwise, and the answer to an illegal word, from every state in which the word is accepted. -/
def Obligations.WordsDecodeOrAreIllegal : Prop :=
  ∀ w : CmdWord, ∀ op arg data : Nat,
    op = w.toNat / 4096 → arg = w.toNat / 256 % 16 → data = w.toNat % 256 →
    (op = 0 ∨ op = 15 → decode w = .error .reservedOp) ∧
    (op ≠ 0 → op ≠ 15 → op ≠ 1 → op ≠ 2 → arg ≠ 0 → decode w = .error .argNotZero) ∧
    (op ≠ 0 → op ≠ 15 → (op = 1 ∨ op = 2 ∨ arg = 0) → op ≠ 5 → op ≠ 9 → op ≠ 11 → data ≠ 0 →
      decode w = .error .dataNotZero) ∧
    ((op = 1 ∧ 5 < arg ∨ op = 2 ∧ 8 < arg) → data = 0 → decode w = .error .lengthOutOfRange) ∧
    (op = 1 → arg ≤ 5 → data = 0 → decode w = .ok (.encq (BitVec.ofNat 4 arg))) ∧
    (op = 2 → arg ≤ 8 → data = 0 → decode w = .ok (.decq (BitVec.ofNat 4 arg))) ∧
    (arg = 0 →
      (op = 5 → decode w = .ok (.ewrite (BitVec.ofNat 8 data))) ∧
      (op = 9 → decode w = .ok (.dpush (BitVec.ofNat 8 data))) ∧
      (op = 11 → decode w = .ok (.dfail (BitVec.ofNat 8 data)))) ∧
    (arg = 0 → data = 0 →
      (op = 3 → decode w = .ok .elen) ∧ (op = 4 → decode w = .ok .dlen) ∧
      (op = 6 → decode w = .ok .eclose) ∧ (op = 7 → decode w = .ok .erst) ∧ (op = 8 → decode w = .ok .estat) ∧
      (op = 10 → decode w = .ok .dend) ∧ (op = 12 → decode w = .ok .dread) ∧ (op = 13 → decode w = .ok .drst) ∧
      (op = 14 → decode w = .ok .dstat)) ∧
    (∀ (e : Illegal) (s : State) (p : PortInput) (rest : List PortInput),
      decode w = .error e → s.script = p :: rest → p.rst = false → p.cmd = some w → s.waiting = none →
      step s = .next { s with now := p, script := rest, responses := s.responses ++ [⟨.illegal, 0, 0⟩] })

/-- Words written out from 30_encoding.md R75, and a few that R76 rejects (95_test_vectors.md section 2.6). -/
def Obligations.SampleWordsDecode : Prop :=
  decode 0x1500 = .ok (.encq 5) ∧ decode 0x2800 = .ok (.decq 8) ∧ decode 0x3000 = .ok .elen ∧
  decode 0x50FF = .ok (.ewrite 0xFF) ∧ decode 0x6000 = .ok .eclose ∧ decode 0x9043 = .ok (.dpush 0x43) ∧
  decode 0xB007 = .ok (.dfail 0x07) ∧ decode 0xC000 = .ok .dread ∧
  decode 0x1600 = .error .lengthOutOfRange ∧ decode 0x5166 = .error .argNotZero ∧
  decode 0xA0FF = .error .dataNotZero ∧ decode 0xF000 = .error .reservedOp

/-- The codes of RSP (30_encoding.md R73), of DST and of PST (10_state.md R30, R29): the numbers, and no code twice.
Derived. -/
def Obligations.StatusCodesAreTheTables : Prop :=
  [Status.ok, .again, .busy, .eof, .corrupt, .ioerr, .closed, .illegal].map (fun c => c.code.toNat) =
    [0, 1, 2, 3, 4, 5, 6, 7] ∧
  [Dst.run, .pad, .term].map (fun c => c.code.toNat) = [0, 1, 2] ∧
  [Pst.none, .eof, .corrupt, .ioerr].map (fun c => c.code.toNat) = [0, 1, 2, 3]

/-! ### Steps -/

/-- A step runs the decoded command: the presented word is taken from the pins and its command is executed (derived from
10_state.md R21, 20_memory.md R55; the input record is the model's, log 1). -/
def Obligations.StepRunsDecodedCommand : Prop :=
  ∀ (s : State) (p : PortInput) (rest : List PortInput) (w : CmdWord) (i : Instr),
    s.script = p :: rest → p.rst = false → s.waiting = none → p.cmd = some w → decode w = .ok i →
    step s = exec i { s with now := p, script := rest }

/-- The block has no trap (60_exceptions.md R240) and never stops: every step answers a next state. Derived; that a step
with no input record left changes nothing is the model's choice (log 4). -/
def Obligations.EveryStepGoesOn : Prop :=
  (∀ s : State, ∃ t, step s = .next t) ∧ (∀ s : State, s.script = [] → step s = .next s)

/-- Reset, with or without a command presented, between commands or in a wait, gives every register its reset value, ends
the wait and drives no response (derived from 70_reset_and_hazards.md R270 and 10_state.md R36; that it does so too when
the waiting command's sink answer comes in the same step is the model's reading, log 7). -/
def Obligations.ResetGivesResetValues : Prop :=
  ∀ (s : State) (p : PortInput) (rest : List PortInput),
    s.script = p :: rest → p.rst = true →
    ∃ t, step s = .next t ∧
      t.seb = { acc := #v[0, 0, 0, 0], vcnt := 0, closed := false, errv := false, errc := 0 } ∧
      t.sdb = { sacc := #v[0, 0, 0, 0, 0, 0, 0], scnt := 0, qbuf := #v[0, 0, 0, 0, 0], qidx := 0, qcnt := 0,
                dst := .run, pst := .none, poff := 0, perr := 0, soff := 0 } ∧
      t.waiting = none ∧ t.responses = s.responses ∧ t.script = rest

/-- The state after reset (70_reset_and_hazards.md R271): every register, and ESTAT and DSTAT answer 0. -/
def Obligations.StateAfterReset : Prop :=
  State.reset.seb = { acc := #v[0, 0, 0, 0], vcnt := 0, closed := false, errv := false, errc := 0 } ∧
  State.reset.sdb = { sacc := #v[0, 0, 0, 0, 0, 0, 0], scnt := 0, qbuf := #v[0, 0, 0, 0, 0], qidx := 0, qcnt := 0,
                      dst := .run, pst := .none, poff := 0, perr := 0, soff := 0 } ∧
  exec .estat State.reset = .next (State.reset.respond .ok 0 0) ∧
  exec .dstat State.reset = .next (State.reset.respond .ok 0 0)

/-- While a command waits and the sink does not answer, a step changes nothing but the pins: no other command is accepted
(derived from 20_memory.md R55, 70_reset_and_hazards.md R279; a command presented meanwhile is dropped, log 5). -/
def Obligations.WaitingChangesNothing : Prop :=
  ∀ (s : State) (p : PortInput) (rest : List PortInput),
    s.Inv → s.waiting.isSome = true → s.script = p :: rest → p.rst = false → p.ans = none →
    step s = .next { s with now := p, script := rest }

/-- A command that had to wait ends, when the answer comes, in the state it would have ended in at once (derived from
20_memory.md R55: it either completes with all its register writes or has not happened). -/
def Obligations.LateAnswerActsAsPromptAnswer : Prop :=
  ∀ (i : Instr) (s w : State) (p : PortInput) (rest : List PortInput) (a : SinkAnswer),
    s.now.ans = none → exec i s = .next w → w.waiting.isSome = true →
    w.script = p :: rest → p.rst = false → p.ans = some a →
    (i = .eclose ∨ ∃ b, i = .ewrite b) ∧ w = { s with waiting := w.waiting } ∧
    step w = exec i { s with now := p, script := rest }

/-! ### The ROMs -/

/-- 40_codec_core.md R100: ALPHA is the literal string, in value order, in ASCII. -/
def Obligations.AlphabetIsTheString : Prop :=
  (List.range 32).map (fun v => (alpha (BitVec.ofNat 5 v)).toNat) =
    "0123456789ABCDEFGHJKMNPQRSTVWXYZ".toList.map Char.toNat

/-- 40_codec_core.md R104: the 60 valid entries of DT, and every other byte (the padding byte among them, R105) invalid. -/
def Obligations.DecodeTableEntries : Prop :=
  ∀ b : Byte, ∀ n : Nat, n = b.toNat →
    dt b =
      if 0x30 ≤ n ∧ n ≤ 0x39 then some (BitVec.ofNat 5 (n - 0x30))
      else if 0x41 ≤ n ∧ n ≤ 0x48 then some (BitVec.ofNat 5 (n - 0x41 + 10))
      else if n = 0x49 then some 1
      else if 0x4A ≤ n ∧ n ≤ 0x4B then some (BitVec.ofNat 5 (n - 0x4A + 18))
      else if n = 0x4C then some 1
      else if 0x4D ≤ n ∧ n ≤ 0x4E then some (BitVec.ofNat 5 (n - 0x4D + 20))
      else if n = 0x4F then some 0
      else if 0x50 ≤ n ∧ n ≤ 0x54 then some (BitVec.ofNat 5 (n - 0x50 + 22))
      else if 0x56 ≤ n ∧ n ≤ 0x5A then some (BitVec.ofNat 5 (n - 0x56 + 27))
      else if 0x61 ≤ n ∧ n ≤ 0x68 then some (BitVec.ofNat 5 (n - 0x61 + 10))
      else if n = 0x69 then some 1
      else if 0x6A ≤ n ∧ n ≤ 0x6B then some (BitVec.ofNat 5 (n - 0x6A + 18))
      else if n = 0x6C then some 1
      else if 0x6D ≤ n ∧ n ≤ 0x6E then some (BitVec.ofNat 5 (n - 0x6D + 20))
      else if n = 0x6F then some 0
      else if 0x70 ≤ n ∧ n ≤ 0x74 then some (BitVec.ofNat 5 (n - 0x70 + 22))
      else if 0x76 ≤ n ∧ n ≤ 0x7A then some (BitVec.ofNat 5 (n - 0x76 + 27))
      else none

/-! ### The stateless commands -/

/-- 40_codec_core.md R107: ENCQ, its word 0x1k00, answers OK with the symbols of the k bytes, by the per-byte lines of
R106, and changes nothing else. -/
def Obligations.EncqAnswersSymbols : Prop :=
  ∀ (k : BitVec 4) (s : State), k ≤ 5#4 →
    (encode (.encq k)).toNat = 0x1000 + 256 * k.toNat ∧
    ∃ res : Bus, exec (.encq k) s = .next (s.respond .ok res (BitVec.ofNat 4 ((k.toNat * 8 + 4) / 5))) ∧
      CarriesSymbols res k.toNat (fun i => s.now.opnd.toNat / 2 ^ (32 - 8 * i) % 256)

/-- 40_codec_core.md R112: DECQ, its word 0x2j00, answers CORRUPT with the first invalid lane, CORRUPT 0 for a lone symbol,
and otherwise OK with the bytes of the j symbols, by the per-byte lines of R109; it changes nothing else. -/
def Obligations.DecqAnswersBytesOrLane : Prop :=
  ∀ (j : BitVec 4) (s : State), j ≤ 8#4 →
    (encode (.decq j)).toNat = 0x2000 + 256 * j.toNat ∧
    (∀ i < j.toNat, dt (BitVec.ofNat 8 (laneNat s.now.opnd i)) = none →
      (∀ m < i, dt (BitVec.ofNat 8 (laneNat s.now.opnd m)) ≠ none) →
      exec (.decq j) s = .next (s.respond .corrupt (BitVec.ofNat 64 i) 0)) ∧
    (j = 1#4 → exec (.decq j) s = .next (s.respond .corrupt 0 0)) ∧
    (j ≠ 1#4 → ∀ v : Nat → Val5, (∀ i < j.toNat, dt (BitVec.ofNat 8 (laneNat s.now.opnd i)) = some (v i)) →
      ∃ res : Bus, exec (.decq j) s = .next (s.respond .ok res (BitVec.ofNat 4 (5 * j.toNat / 8))) ∧
        res.toNat < 2 ^ 40 ∧
        CarriesBytes (fun i => res.toNat / 2 ^ (32 - 8 * i) % 256) j.toNat (fun i => (v i).toNat))

/-- A length the decoder never gives (30_encoding.md R76 step 4) is answered ILLEGAL if it is executed at all. Derived;
the model's choice for a term no word spells (log 8). -/
def Obligations.LengthOutOfRangeAnswersIllegal : Prop :=
  ∀ (k : BitVec 4) (s : State),
    (5#4 < k → exec (.encq k) s = .next (s.respond .illegal 0 0)) ∧
    (8#4 < k → exec (.decq k) s = .next (s.respond .illegal 0 0))

/-- 40_codec_core.md R114 and R115: the two length functions of OPND[31:0], exact, and their words; nothing else
changes. -/
def Obligations.LengthsAreExact : Prop :=
  ∀ (s : State) (n : Nat), n = s.now.opnd.toNat % 2 ^ 32 →
    (encode .elen).toNat = 0x3000 ∧ (encode .dlen).toNat = 0x4000 ∧
    (∃ res : Bus, exec .elen s = .next (s.respond .ok res 0) ∧ res.toNat = (n * 8 + 4) / 5) ∧
    (∃ res : Bus, exec .dlen s = .next (s.respond .ok res 0) ∧ res.toNat = n * 5 / 8)

/-! ### The streaming encode buffer -/

/-- EWRITE in each of its cases, with the transfer of a completed quantum by the per-byte lines of 40_codec_core.md R106,
and the whole next state of each (derived from 41_stream_encoder.md R143; the last clause, no answer yet, from 20_memory.md
R55 and 41_stream_encoder.md R141: that the command waits with nothing else changed is the model's reading, log 3). -/
def Obligations.EwriteEffect : Prop :=
  ∀ (b : Byte) (s : State),
    (encode (.ewrite b)).toNat = 0x5000 + b.toNat ∧
    (s.seb.errv = true → exec (.ewrite b) s = .next (s.respond .ioerr (s.seb.errc.setWidth 64) 0)) ∧
    (s.seb.errv = false → s.seb.closed = true → exec (.ewrite b) s = .next (s.respond .closed 0 0)) ∧
    (s.seb.errv = false → s.seb.closed = false → s.seb.vcnt < 4#3 →
      ∃ acc : Vector Byte 4, acc.toList = s.seb.acc.toList.set s.seb.vcnt.toNat b ∧
        exec (.ewrite b) s =
          .next ({ s with seb := { s.seb with acc := acc, vcnt := s.seb.vcnt + 1 } }.respond .ok 0 0)) ∧
    (s.seb.errv = false → s.seb.closed = false → s.seb.vcnt = 4#3 →
      ∃ sym : Bus, CarriesSymbols sym 5 (entryNat (s.seb.acc.toList ++ [b])) ∧
        (s.now.ans = some .accept → exec (.ewrite b) s =
          .next ({ s with seb := { s.seb with vcnt := 0 },
                          transfers := s.transfers ++ [({ offer := ⟨sym, 8⟩, fate := .accepted } : TransferRecord)] }.respond .ok 0 0)) ∧
        (∀ c, s.now.ans = some (.fail c) → exec (.ewrite b) s =
          .next ({ s with seb := { s.seb with errv := true, errc := c },
                          transfers := s.transfers ++ [({ offer := ⟨sym, 8⟩, fate := .failed c } : TransferRecord)] }.respond .ioerr (c.setWidth 64) 0)) ∧
        (s.now.ans = none → exec (.ewrite b) s =
          .next { s with waiting := some ⟨.ewrite b, ⟨sym, 8⟩⟩ }))

/-- ECLOSE in each of its cases, with the transfer of the final partial quantum by the per-byte lines of 40_codec_core.md
R106, and the whole next state of each (derived from 41_stream_encoder.md R147; the last clause, no answer yet, from
20_memory.md R55 and 41_stream_encoder.md R141: that the command waits with nothing else changed is the model's reading,
log 3). -/
def Obligations.EcloseEffect : Prop :=
  ∀ s : State,
    (encode .eclose).toNat = 0x6000 ∧
    (s.seb.errv = true → exec .eclose s = .next (s.respond .ioerr (s.seb.errc.setWidth 64) 0)) ∧
    (s.seb.errv = false → s.seb.closed = true → exec .eclose s = .next (s.respond .ok 0 0)) ∧
    (s.seb.errv = false → s.seb.closed = false → s.seb.vcnt = 0 →
      exec .eclose s = .next ({ s with seb := { s.seb with closed := true } }.respond .ok 0 0)) ∧
    (s.seb.errv = false → s.seb.closed = false → s.seb.vcnt ≠ 0 → s.seb.vcnt ≤ 4#3 →
      ∃ (sym : Bus) (len : BitVec 4),
        CarriesSymbols sym s.seb.vcnt.toNat (entryNat s.seb.acc.toList) ∧
        len.toNat = (s.seb.vcnt.toNat * 8 + 4) / 5 ∧
        (s.now.ans = some .accept → exec .eclose s =
          .next ({ s with seb := { s.seb with vcnt := 0, closed := true },
                          transfers := s.transfers ++ [({ offer := ⟨sym, len⟩, fate := .accepted } : TransferRecord)] }.respond .ok 0 0)) ∧
        (∀ c, s.now.ans = some (.fail c) → exec .eclose s =
          .next ({ s with seb := { s.seb with errv := true, errc := c },
                          transfers := s.transfers ++ [({ offer := ⟨sym, len⟩, fate := .failed c } : TransferRecord)] }.respond .ioerr (c.setWidth 64) 0)) ∧
        (s.now.ans = none → exec .eclose s = .next { s with waiting := some ⟨.eclose, ⟨sym, len⟩⟩ }))

/-- 41_stream_encoder.md R142: after a sink failure every EWRITE and ECLOSE re-reports it, without a transfer and with no
register changed; ESTAT is not affected; only ERST (or reset) clears it. -/
def Obligations.SinkFailureIsSticky : Prop :=
  (∀ (i : Instr) (s t : State) (c : Byte), s.seb.errv = false → s.now.ans = some (.fail c) → exec i s = .next t →
    t.transfers ≠ s.transfers → t.seb.errv = true ∧ t.seb.errc = c) ∧
  (∀ s : State, s.seb.errv = true →
    (∀ b, exec (.ewrite b) s = .next (s.respond .ioerr (s.seb.errc.setWidth 64) 0)) ∧
    exec .eclose s = .next (s.respond .ioerr (s.seb.errc.setWidth 64) 0) ∧
    (∃ res, exec .estat s = .next (s.respond .ok res 0)) ∧
    (∀ t, s.nextIsNot .erst → step s = .next t → t.seb.errv = true ∧ t.seb.errc = s.seb.errc))

/-- 41_stream_encoder.md R151: ERST gives every SEB register its reset value, whatever the state, and nothing else
changes. -/
def Obligations.ErstEffect : Prop :=
  ∀ s : State, (encode .erst).toNat = 0x7000 ∧ exec .erst s =
    .next ({ s with seb := { acc := #v[0, 0, 0, 0], vcnt := 0, closed := false, errv := false, errc := 0 } }.respond .ok 0 0)

/-- 41_stream_encoder.md R152 with the layout of 10_state.md R28: ESTAT answers the image of the encode buffer and changes
nothing. -/
def Obligations.EstatReadsEsr : Prop :=
  ∀ s : State, (encode .estat).toNat = 0x8000 ∧ ∃ res : Bus, exec .estat s = .next (s.respond .ok res 0) ∧
    res.toNat = s.seb.vcnt.toNat + 2 ^ 3 * s.seb.closed.toNat + 2 ^ 4 * s.seb.errv.toNat + 2 ^ 8 * s.seb.errc.toNat

/-! ### The streaming decode buffer -/

/-- 42_stream_decoder.md R176: the input admission of DPUSH, DEND and DFAIL, in its order. -/
def Obligations.InputAdmission : Prop :=
  ∀ (i : Instr) (s : State), ((∃ b, i = .dpush b) ∨ i = .dend ∨ ∃ c, i = .dfail c) →
    (s.sdb.dst = .term → exec i s = .next (s.respond .closed 0 0)) ∧
    (s.sdb.dst ≠ .term → s.sdb.qcnt ≠ 0 → exec i s = .next (s.respond .busy 0 0)) ∧
    (s.sdb.dst ≠ .term → s.sdb.qcnt = 0 →
      ∃ d : Sdb, d ≠ s.sdb ∧ exec i s = .next ({ s with sdb := d }.respond .ok 0 0))

/-- 42_stream_decoder.md R177: DPUSH, its word, the two answers that refuse it, and an admitted byte in each of its cases,
with a queued group by the per-byte lines of 40_codec_core.md R109, and the whole next state of each. -/
def Obligations.DpushEffect : Prop :=
  ∀ (b : Byte) (s : State) (d : Sdb), d = s.sdb →
    (encode (.dpush b)).toNat = 0x9000 + b.toNat ∧
    (d.dst = .term → exec (.dpush b) s = .next (s.respond .closed 0 0)) ∧
    (d.dst ≠ .term → d.qcnt ≠ 0 → exec (.dpush b) s = .next (s.respond .busy 0 0)) ∧
    (d.qcnt = 0 →
    (d.dst = .run → b = 0x3D#8 → d.scnt = 0 → exec (.dpush b) s =
      .next ({ s with sdb := { d with soff := d.soff + 1, dst := .pad } }.respond .ok 0 0)) ∧
    (d.dst = .run → b = 0x3D#8 → d.scnt = 1#3 → exec (.dpush b) s =
      .next ({ s with sdb := { d with soff := d.soff + 1, dst := .term, pst := .corrupt, poff := d.soff - 1,
                                      scnt := 0 } }.respond .ok 0 0)) ∧
    (d.dst = .run → b = 0x3D#8 → 2#3 ≤ d.scnt →
      ∃ (q : Vector Byte 5) (n : BitVec 3), n.toNat = 5 * d.scnt.toNat / 8 ∧
        CarriesBytes (entryNat q.toList) d.scnt.toNat (entryNat d.sacc.toList) ∧
        exec (.dpush b) s =
          .next ({ s with sdb := { d with soff := d.soff + 1, qbuf := q, qidx := 0, qcnt := n, scnt := 0,
                                          dst := .pad } }.respond .ok 0 0)) ∧
    (d.dst = .run → b ≠ 0x3D#8 → dt b = none → exec (.dpush b) s =
      .next ({ s with sdb := { d with soff := d.soff + 1, dst := .term, pst := .corrupt, poff := d.soff,
                                      scnt := 0 } }.respond .ok 0 0)) ∧
    (d.dst = .run → ∀ v, dt b = some v → d.scnt < 7#3 →
      ∃ a : Vector Val5 7, a.toList = d.sacc.toList.set d.scnt.toNat v ∧
        exec (.dpush b) s =
          .next ({ s with sdb := { d with soff := d.soff + 1, sacc := a, scnt := d.scnt + 1 } }.respond .ok 0 0)) ∧
    (d.dst = .run → ∀ v, dt b = some v → d.scnt = 7#3 →
      ∃ q : Vector Byte 5, CarriesBytes (entryNat q.toList) 8 (entryNat (d.sacc.toList ++ [v])) ∧
        exec (.dpush b) s =
          .next ({ s with sdb := { d with soff := d.soff + 1, qbuf := q, qidx := 0, qcnt := 5,
                                          scnt := 0 } }.respond .ok 0 0)) ∧
    (d.dst = .pad → b = 0x3D#8 → exec (.dpush b) s =
      .next ({ s with sdb := { d with soff := d.soff + 1 } }.respond .ok 0 0)) ∧
    (d.dst = .pad → b ≠ 0x3D#8 → exec (.dpush b) s =
      .next ({ s with sdb := { d with soff := d.soff + 1, dst := .term, pst := .corrupt,
                                      poff := d.soff } }.respond .ok 0 0)))

/-- 42_stream_decoder.md R182: DEND, its word, the two answers that refuse it, and when admitted each of its cases, with
the whole next state of each. -/
def Obligations.DendEffect : Prop :=
  ∀ (s : State) (d : Sdb), d = s.sdb →
    (encode .dend).toNat = 0xA000 ∧
    (d.dst = .term → exec .dend s = .next (s.respond .closed 0 0)) ∧
    (d.dst ≠ .term → d.qcnt ≠ 0 → exec .dend s = .next (s.respond .busy 0 0)) ∧
    (d.qcnt = 0 →
    (d.dst = .run → d.scnt = 0 → exec .dend s =
      .next ({ s with sdb := { d with dst := .term, pst := .eof } }.respond .ok 0 0)) ∧
    (d.dst = .run → d.scnt = 1#3 → exec .dend s =
      .next ({ s with sdb := { d with dst := .term, pst := .corrupt, poff := d.soff - 1, scnt := 0 } }.respond .ok 0 0)) ∧
    (d.dst = .run → 2#3 ≤ d.scnt →
      ∃ (q : Vector Byte 5) (n : BitVec 3), n.toNat = 5 * d.scnt.toNat / 8 ∧
        CarriesBytes (entryNat q.toList) d.scnt.toNat (entryNat d.sacc.toList) ∧
        exec .dend s =
          .next ({ s with sdb := { d with qbuf := q, qidx := 0, qcnt := n, scnt := 0, dst := .term,
                                          pst := .eof } }.respond .ok 0 0)) ∧
    (d.dst = .pad → exec .dend s =
      .next ({ s with sdb := { d with scnt := 0, dst := .term, pst := .eof } }.respond .ok 0 0)))

/-- 42_stream_decoder.md R184: DFAIL, its word, the two answers that refuse it, and when admitted its effect, in RUN and
in PAD alike. -/
def Obligations.DfailEffect : Prop :=
  ∀ (c : Byte) (s : State),
    (encode (.dfail c)).toNat = 0xB000 + c.toNat ∧
    (s.sdb.dst = .term → exec (.dfail c) s = .next (s.respond .closed 0 0)) ∧
    (s.sdb.dst ≠ .term → s.sdb.qcnt ≠ 0 → exec (.dfail c) s = .next (s.respond .busy 0 0)) ∧
    (s.sdb.dst ≠ .term → s.sdb.qcnt = 0 → exec (.dfail c) s =
      .next ({ s with sdb := { s.sdb with scnt := 0, dst := .term, pst := .ioerr, perr := c } }.respond .ok 0 0))

/-- 42_stream_decoder.md R186: DREAD in each of its cases, and the whole next state of each. QIDX is below 5 whenever a
byte is queued and PST is not NONE in TERM (10_state.md R31), which the premise says. -/
def Obligations.DreadEffect : Prop :=
  ∀ s : State, s.sdb.Inv →
    (encode .dread).toNat = 0xC000 ∧
    (s.sdb.qcnt ≠ 0 → ∃ x : Byte, s.sdb.qbuf.toList[s.sdb.qidx.toNat]? = some x ∧
      exec .dread s =
        .next ({ s with sdb := { s.sdb with qidx := s.sdb.qidx + 1, qcnt := s.sdb.qcnt - 1 } }.respond .ok
          (x.setWidth 64) 1)) ∧
    (s.sdb.qcnt = 0 → s.sdb.dst ≠ .term → exec .dread s = .next (s.respond .again 0 0)) ∧
    (s.sdb.qcnt = 0 → s.sdb.dst = .term → s.sdb.pst = .eof → exec .dread s = .next (s.respond .eof 0 0)) ∧
    (s.sdb.qcnt = 0 → s.sdb.dst = .term → s.sdb.pst = .corrupt →
      exec .dread s = .next (s.respond .corrupt s.sdb.poff 0)) ∧
    (s.sdb.qcnt = 0 → s.sdb.dst = .term → s.sdb.pst = .ioerr →
      exec .dread s = .next (s.respond .ioerr (s.sdb.perr.setWidth 64) 0))

/-- 42_stream_decoder.md R189: DRST gives every SDB register its reset value, whatever the state, and nothing else
changes. -/
def Obligations.DrstEffect : Prop :=
  ∀ s : State, (encode .drst).toNat = 0xD000 ∧ exec .drst s =
    .next ({ s with sdb := { sacc := #v[0, 0, 0, 0, 0, 0, 0], scnt := 0, qbuf := #v[0, 0, 0, 0, 0], qidx := 0, qcnt := 0,
                             dst := .run, pst := .none, poff := 0, perr := 0, soff := 0 } }.respond .ok 0 0)

/-- 42_stream_decoder.md R190 with the layout of 10_state.md R32: DSTAT answers the image of the decode buffer and changes
nothing. -/
def Obligations.DstatReadsDsr : Prop :=
  ∀ s : State, (encode .dstat).toNat = 0xE000 ∧ ∃ res : Bus, exec .dstat s = .next (s.respond .ok res 0) ∧
    res.toNat = s.sdb.dst.code.toNat + 2 ^ 2 * s.sdb.scnt.toNat + 2 ^ 5 * s.sdb.qcnt.toNat +
      2 ^ 8 * s.sdb.pst.code.toNat + 2 ^ 16 * s.sdb.perr.toNat

/-- A full queue is drained by QCNT DREADs, at most 5, each answering OK with the next byte (derived from
42_stream_decoder.md R186 and 70_reset_and_hazards.md R275). -/
def Obligations.QueueDrainsInOrder : Prop :=
  ∀ (s : State) (n : Nat), s.Inv → s.waiting = none → n = s.sdb.qcnt.toNat →
    s.script = List.replicate n (inputOf .dread 0 none) →
    n ≤ 5 ∧ ∃ t, runSteps n s = .next t ∧ t.sdb.qcnt = 0 ∧
      t.responses = s.responses ++ s.sdb.queued.map (fun x => ⟨.ok, x.setWidth 64, 1⟩) ∧
      t.seb = s.seb ∧ t.sdb.dst = s.sdb.dst ∧ t.sdb.pst = s.sdb.pst

/-! ### Rules about the whole block -/

/-- A command to one unit leaves the other unit's registers alone, and what it does depends on its own unit only: its
registers, its answer and its transfers come out the same whatever the other unit holds. The stateless commands depend on
OPND alone (derived from 20_memory.md R58, 10_state.md R25). -/
def Obligations.UnitsAreIndependent : Prop :=
  (∀ (i : Instr) (s t : State), exec i s = .next t →
    (i.component ≠ .streamingEncodeBuffer → t.seb = s.seb ∧ t.transfers = s.transfers ∧ t.waiting = none) ∧
    (i.component ≠ .streamingDecodeBuffer → t.sdb = s.sdb)) ∧
  (∀ (i : Instr) (s s' t t' : State), exec i s = .next t → exec i s' = .next t' →
    (i.component = .streamingEncodeBuffer → s.seb = s'.seb → s.now.ans = s'.now.ans → s.waiting = s'.waiting →
      t.seb = t'.seb ∧ t.waiting = t'.waiting ∧ SamePorts s t s' t') ∧
    (i.component = .streamingDecodeBuffer → s.sdb = s'.sdb → t.sdb = t'.sdb ∧ SamePorts s t s' t') ∧
    (i.component ≠ .streamingEncodeBuffer → i.component ≠ .streamingDecodeBuffer → s.now.opnd = s'.now.opnd →
      SamePorts s t s' t'))

/-- The exact cause of every non-OK status of a command (derived from 60_exceptions.md R244, whose last column, the bad
words, is WordsDecodeOrAreIllegal's: a bad word is no command, so no command answers ILLEGAL). -/
def Obligations.StatusCauses : Prop :=
  ∀ (i : Instr) (s t : State) (r : Response), s.Inv → i.wellFormed = true → exec i s = .next t →
    t.responses = s.responses ++ [r] →
    (r.rsp = .again ↔ i = .dread ∧ s.sdb.qcnt = 0 ∧ s.sdb.dst ≠ .term) ∧
    (r.rsp = .busy ↔ ((∃ b, i = .dpush b) ∨ i = .dend ∨ ∃ c, i = .dfail c) ∧ s.sdb.dst ≠ .term ∧ s.sdb.qcnt ≠ 0) ∧
    (r.rsp = .eof ↔ i = .dread ∧ s.sdb.qcnt = 0 ∧ s.sdb.pst = .eof) ∧
    (r.rsp = .corrupt ↔
      (∃ j, i = .decq j ∧ (j = 1#4 ∨ ∃ m < j.toNat, dt (BitVec.ofNat 8 (laneNat s.now.opnd m)) = none)) ∨
      (i = .dread ∧ s.sdb.qcnt = 0 ∧ s.sdb.pst = .corrupt)) ∧
    (r.rsp = .ioerr ↔
      (((∃ b, i = .ewrite b) ∨ i = .eclose) ∧
        (s.seb.errv = true ∨ ((transferOf i s.seb).isSome = true ∧ ∃ c, s.now.ans = some (.fail c)))) ∨
      (i = .dread ∧ s.sdb.qcnt = 0 ∧ s.sdb.pst = .ioerr)) ∧
    (r.rsp = .closed ↔
      (∃ b, i = .ewrite b ∧ s.seb.errv = false ∧ s.seb.closed = true) ∨
      (((∃ b, i = .dpush b) ∨ i = .dend ∨ ∃ c, i = .dfail c) ∧ s.sdb.dst = .term)) ∧
    r.rsp ≠ .illegal

/-- A command answered AGAIN, BUSY, CLOSED or ILLEGAL, or IOERR by the sticky check, and every read-only command, leaves
every register and makes no transfer (derived from 60_exceptions.md R243 and 20_memory.md R57). -/
def Obligations.RefusalsAndReadsChangeNothing : Prop :=
  ∀ (i : Instr) (s t : State) (r : Response), exec i s = .next t → t.responses = s.responses ++ [r] →
    (r.rsp = .again ∨ r.rsp = .busy ∨ r.rsp = .closed ∨ r.rsp = .illegal ∨ (s.seb.errv = true ∧ r.rsp = .ioerr) ∨
      (∃ k, i = .encq k) ∨ (∃ j, i = .decq j) ∨ i = .elen ∨ i = .dlen ∨ i = .estat ∨ i = .dstat) →
    t = { s with waiting := none, responses := s.responses ++ [r] }

/-- The first failure wins: what is recorded does not change in any step that is not DRST, ERST or reset (derived from
60_exceptions.md R249, R250). -/
def Obligations.FirstFailureWins : Prop :=
  ∀ s t : State, step s = .next t →
    (s.sdb.dst = .term → s.nextIsNot .drst →
      t.sdb.dst = .term ∧ t.sdb.pst = s.sdb.pst ∧ t.sdb.poff = s.sdb.poff ∧ t.sdb.perr = s.sdb.perr ∧
      t.sdb.soff = s.sdb.soff) ∧
    (s.seb.errv = true → s.nextIsNot .erst →
      t.seb = s.seb ∧ t.transfers = s.transfers)

/-- ERST and DRST one after the other leave the registers as reset does (derived from 70_reset_and_hazards.md R272). -/
def Obligations.PartialResetsMakeReset : Prop :=
  ∀ s : State, ∃ t u, exec .erst s = .next t ∧ t.sdb = s.sdb ∧ exec .drst t = .next u ∧
    u.seb = State.reset.seb ∧ u.sdb = State.reset.sdb ∧ u.waiting = none ∧ u.transfers = s.transfers

/-- Reset meets the invariant (derived from 10_state.md R27, R31). -/
def Obligations.ResetMeetsInvariant : Prop := State.reset.Inv

/-- Every step keeps the invariant: the bounds and implications of 10_state.md R27 and R31 on both units, and a command
waits only for a transfer it makes (20_memory.md R55). Derived. -/
def Obligations.EveryStepKeepsInvariant : Prop :=
  ∀ s t : State, s.Inv → step s = .next t → t.Inv

/-- Entries of ACC, SACC and QBUF past the counts, and POFF while no Corrupt Input is recorded, are unobservable: machines
that differ only there answer alike, transfer alike and stay so (derived from 10_state.md R27, R29, R31). -/
def Obligations.UnreadEntriesAreUnobservable : Prop :=
  ∀ (i : Instr) (s s' t t' : State), s.Inv → s'.Inv → s.Alike s' → exec i s = .next t → exec i s' = .next t' →
    t.Alike t' ∧ SamePorts s t s' t'

/-! ### Whole sequences -/

/-- 43_sequence_level.md R210: Encode goes by quanta of five bytes, each quantum is what ENCQ answers, the length is
EncodedLength, and the empty sequence gives the empty sequence. -/
def Obligations.EncodeIsEncqByQuanta : Prop :=
  encodeSeq [] = [] ∧
  (∀ q rest : List Byte, q.length = 5 → encodeSeq (q ++ rest) = encodeSeq q ++ encodeSeq rest) ∧
  (∀ (q : List Byte) (s : State), q.length ≤ 5 →
    (∀ i < q.length, s.now.opnd.toNat / 2 ^ (32 - 8 * i) % 256 = entryNat q i) →
    ∃ r : Response, exec (.encq (BitVec.ofNat 4 q.length)) s = .next (s.respond r.rsp r.res r.rlen) ∧ r.rsp = .ok ∧
      encodeSeq q = operandSymbols r.res r.rlen.toNat) ∧
  (∀ b : List Byte, (encodeSeq b).length = (b.length * 8 + 4) / 5)

/-- 43_sequence_level.md R216 and R221: decoding an encoding, with any number of padding bytes after it (none included),
gives the bytes back. -/
def Obligations.PaddedEncodingDecodesBack : Prop :=
  ∀ (b : List Byte) (p : Nat), decodeSeq (encodeSeq b ++ List.replicate p 0x3D#8) = (.ok, b)

/-- 43_sequence_level.md R217: an encoding in any letter case and with any aliases decodes, and encoding the result gives
its canonical form. -/
def Obligations.ReencodingCanonicalizes : Prop :=
  ∀ b s : List Byte, s.map canonicalize = encodeSeq b →
    ∃ out, decodeSeq s = (.ok, out) ∧ encodeSeq out = s.map canonicalize

/-- 43_sequence_level.md R218 and R219: neither the letter case nor replacing aliases by their canonical symbols, at any
of their places, changes Decode, for valid and invalid input alike. -/
def Obligations.CaseAndAliasesFold : Prop :=
  ∀ s : List Byte, decodeSeq (s.map uppercase) = decodeSeq s ∧
    ∀ s' : List Byte, List.Forall₂ (fun x y => y = x ∨ y = foldAlias x) s s' → decodeSeq s' = decodeSeq s

/-- 43_sequence_level.md R220: one more alphabet symbol after an encoding whose last quantum has 1 or 3 bytes does not
change the decoded bytes. -/
def Obligations.ExtraSymbolIsIgnored : Prop :=
  ∀ (b : List Byte) (v : Val5), b.length % 5 = 1 ∨ b.length % 5 = 3 → decodeSeq (encodeSeq b ++ [alpha v]) = (.ok, b)

/-- The first byte at which a decode fails is reported, whatever follows it, with the bytes of the groups completed before
it: an invalid byte among the data, a byte that is no padding after padding, and padding after a lone symbol, which is
reported at the symbol's offset (derived from 43_sequence_level.md R222, R215, 42_stream_decoder.md R181, R183). -/
def Obligations.FirstInvalidByteIsReported : Prop :=
  ∀ (pre post : List Byte) (c : Byte), (∀ x ∈ pre, dt x ≠ none) →
    (c ≠ 0x3D#8 → dt c = none →
      decodeSeq (pre ++ c :: post) = (.corrupt pre.length, (decodeSeq (pre.take (8 * (pre.length / 8)))).2) ∧
      (decodeSeq (pre ++ c :: post)).2.length = 5 * (pre.length / 8)) ∧
    (∀ p, 1 ≤ p → pre.length % 8 ≠ 1 → c ≠ 0x3D#8 →
      decodeSeq (pre ++ List.replicate p 0x3D#8 ++ c :: post) = (.corrupt (pre.length + p), (decodeSeq pre).2)) ∧
    (pre.length % 8 = 1 →
      decodeSeq (pre ++ 0x3D#8 :: post) =
        (.corrupt (pre.length - 1), (decodeSeq (pre.take (8 * (pre.length / 8)))).2))

/-- 43_sequence_level.md R225: bytes all valid decode exactly when their number is not 1 more than a multiple of 8, and
then to DecodedLength bytes; otherwise the last one is reported; and no decode gives more than DecodedLength bytes. -/
def Obligations.ValidSymbolsDecode : Prop :=
  (∀ s : List Byte, (∀ x ∈ s, dt x ≠ none) →
    ((decodeSeq s).1 = .ok ↔ s.length % 8 ≠ 1) ∧
    (s.length % 8 ≠ 1 → (decodeSeq s).2.length = s.length * 5 / 8) ∧
    (s.length % 8 = 1 → (decodeSeq s).1 = .corrupt (s.length - 1))) ∧
  (∀ s : List Byte, (decodeSeq s).2.length ≤ s.length * 5 / 8)

/-- From an encode buffer just reset, EWRITE of each byte and then ECLOSE, each waiting as many steps as the sink takes and
every one answered OK, leaves the sink with the quanta and then the partial quantum, in order, which together are Encode of
the bytes (derived from 41_stream_encoder.md R153; the script has a sink answer after every command, and that one with no
transfer to answer is ignored is the model's reading, log 18). -/
def Obligations.EncodeBufferStreamsEncode : Prop :=
  ∀ (writes : List (Byte × SinkDelay)) (atClose : SinkDelay) (s t : State) (n : Nat),
    n = writes.length → s.seb = Seb.reset → s.waiting = none → s.script = encodeScript writes atClose →
    runSteps s.script.length s = .next t → t.responses = s.responses ++ List.replicate (n + 1) okResponse →
    ∃ new : List TransferRecord, t.transfers = s.transfers ++ new ∧ (∀ r ∈ new, r.fate = .accepted) ∧
      new.map (fun r => r.offer.len.toNat) =
        List.replicate (n / 5) 8 ++ (if n % 5 = 0 then [] else [(n % 5 * 8 + 4) / 5]) ∧
      new.flatMap TransferRecord.taken = encodeSeq (writes.map Prod.fst) ∧
      (encodeSeq (writes.map Prod.fst)).length = (n * 8 + 4) / 5

/-- Any split of the payload into chunks, written in turn with every transfer accepted at once and then closed, gives the
sink exactly Encode of the payload (derived from 43_sequence_level.md R223; that the sink answers at once is the model's
choice, log 17). -/
def Obligations.ChunkingDoesNotMatter : Prop :=
  ∀ (chunks : List (List Byte)) (s : State), s.seb = Seb.reset → s.waiting = none →
    ∃ t u, writeChunks acceptAll s chunks = some t ∧ hostClose acceptAll t = some u ∧ u.response = okResponse ∧
      u.state.acceptedSymbols = s.acceptedSymbols ++ encodeSeq chunks.flatten

/-- 43_sequence_level.md R224 (and so R215, that the SDB delivers Decode): reads of any size L over a source that yields s
and then the end deliver exactly the bytes of Decode(s), and only then its status, again on every later call, however many
follow one after another and of whatever sizes. -/
def Obligations.ReadsDeliverDecode : Prop :=
  ∀ (bytes : List Byte) (want : Nat) (s : State), 1 ≤ want → s.sdb = Sdb.reset → s.waiting = none →
    ∃ r, readAll acceptAll want (bytes.length + 1) [] (sourceOf bytes) s = some r ∧
      r.bytes = (decodeSeq bytes).2 ∧ r.response = (decodeSeq bytes).1.response ∧
      ∀ laters : List Nat, (∀ later ∈ laters, 1 ≤ later) →
        ∃ qs, hostReads acceptAll r.source r.state laters = some qs ∧ qs.length = laters.length ∧
          ∀ q ∈ qs, q.bytes = [] ∧ q.response = r.response ∧ q.source = r.source

/-! ### Runs -/

/-- Every response of a run answers one command of it, or a word that spells none, which is the one answered ILLEGAL; a step
answers at most once (derived from 30_encoding.md R73, R76, 70_reset_and_hazards.md R284). -/
def Obligations.ExchangesAreTheResponses : Prop :=
  (∀ (n : Nat) (s t : State), runSteps n s = .next t →
    t.responses = s.responses ++ (exchanges n s).map Exchange.response) ∧
  (∀ s t : State, step s = .next t → (exchangeOf s t).length ≤ 1) ∧
  (∀ s t : State, s.Inv → step s = .next t → ∀ e ∈ exchangeOf s t, (e.cmd = none ↔ e.response.rsp = .illegal))

/-- An encode of any bytes, with a sink that accepts every transfer, after however many steps, ends well, and the symbols
accepted are Encode of the bytes (derived from 70_reset_and_hazards.md R284, 41_stream_encoder.md R153; sink answers with
no transfer to answer are ignored, log 18). -/
def Obligations.EncodeRunEndsWell : Prop :=
  ∀ (writes : List (Byte × SinkDelay)) (atClose : SinkDelay) (s : State),
    s.seb = Seb.reset → s.waiting = none → s.script = encodeScript writes atClose →
    (∀ w ∈ writes, w.2.answer = .accept) → atClose.answer = .accept →
    EncodeEndedWell s.script.length s ∧
    ∃ t, runSteps s.script.length s = .next t ∧ (runResult s t).accepted = encodeSeq (writes.map Prod.fst) ∧
      (runResult s t).seb.closed = true ∧ (runResult s t).sdb = s.sdb

/-- A decode of any bytes ends well: the bytes delivered are those of Decode, and the last DREAD answers its status (derived
from 70_reset_and_hazards.md R284, 43_sequence_level.md R215; what "after the last byte" asks is the model's reading, log
22). -/
def Obligations.DecodeRunEndsWell : Prop :=
  ∀ (bytes : List Byte) (s : State), s.sdb = Sdb.reset → s.waiting = none → s.script = decodeScript bytes →
    DecodeEndedWell s.script.length s ∧
    deliveredBytes (exchanges s.script.length s) = (decodeSeq bytes).2 ∧
    lastAnswer .dread (exchanges s.script.length s) = some (decodeSeq bytes).1.response
end

