-- ==== Sys2Proof/Laws/State.lean ====
section
/-! SUPPORT. One lemma per field per update of State, so that no proof unfolds a record update. -/

namespace Sys2Proof.Machine

section respond
variable (s : State) (st : Status) (res : Bus) (rlen : BitVec 4)
@[simp] theorem State.respond_seb : (s.respond st res rlen).seb = s.seb := rfl
@[simp] theorem State.respond_sdb : (s.respond st res rlen).sdb = s.sdb := rfl
@[simp] theorem State.respond_waiting : (s.respond st res rlen).waiting = none := rfl
@[simp] theorem State.respond_now : (s.respond st res rlen).now = s.now := rfl
@[simp] theorem State.respond_script : (s.respond st res rlen).script = s.script := rfl
@[simp] theorem State.respond_responses :
    (s.respond st res rlen).responses = s.responses ++ [{ rsp := st, res := res, rlen := rlen }] := rfl
@[simp] theorem State.respond_transfers : (s.respond st res rlen).transfers = s.transfers := rfl
end respond

section registers
variable (s : State) (e : Seb) (d : Sdb)
@[simp] theorem State.withSeb_seb : (s.withSeb e).seb = e := rfl
@[simp] theorem State.withSeb_sdb : (s.withSeb e).sdb = s.sdb := rfl
@[simp] theorem State.withSeb_waiting : (s.withSeb e).waiting = s.waiting := rfl
@[simp] theorem State.withSeb_now : (s.withSeb e).now = s.now := rfl
@[simp] theorem State.withSeb_script : (s.withSeb e).script = s.script := rfl
@[simp] theorem State.withSeb_responses : (s.withSeb e).responses = s.responses := rfl
@[simp] theorem State.withSeb_transfers : (s.withSeb e).transfers = s.transfers := rfl
@[simp] theorem State.withSdb_seb : (s.withSdb d).seb = s.seb := rfl
@[simp] theorem State.withSdb_sdb : (s.withSdb d).sdb = d := rfl
@[simp] theorem State.withSdb_waiting : (s.withSdb d).waiting = s.waiting := rfl
@[simp] theorem State.withSdb_now : (s.withSdb d).now = s.now := rfl
@[simp] theorem State.withSdb_script : (s.withSdb d).script = s.script := rfl
@[simp] theorem State.withSdb_responses : (s.withSdb d).responses = s.responses := rfl
@[simp] theorem State.withSdb_transfers : (s.withSdb d).transfers = s.transfers := rfl
end registers

section sink
variable (s : State) (i : Instr) (offer : Transfer) (fate : Fate)
@[simp] theorem State.await_seb : (s.await i offer).seb = s.seb := rfl
@[simp] theorem State.await_sdb : (s.await i offer).sdb = s.sdb := rfl
@[simp] theorem State.await_waiting : (s.await i offer).waiting = some { cmd := i, offer := offer } := rfl
@[simp] theorem State.await_now : (s.await i offer).now = s.now := rfl
@[simp] theorem State.await_script : (s.await i offer).script = s.script := rfl
@[simp] theorem State.await_responses : (s.await i offer).responses = s.responses := rfl
@[simp] theorem State.await_transfers : (s.await i offer).transfers = s.transfers := rfl
@[simp] theorem State.recordTransfer_seb : (s.recordTransfer offer fate).seb = s.seb := rfl
@[simp] theorem State.recordTransfer_sdb : (s.recordTransfer offer fate).sdb = s.sdb := rfl
@[simp] theorem State.recordTransfer_waiting : (s.recordTransfer offer fate).waiting = s.waiting := rfl
@[simp] theorem State.recordTransfer_now : (s.recordTransfer offer fate).now = s.now := rfl
@[simp] theorem State.recordTransfer_script : (s.recordTransfer offer fate).script = s.script := rfl
@[simp] theorem State.recordTransfer_responses : (s.recordTransfer offer fate).responses = s.responses := rfl
@[simp] theorem State.recordTransfer_transfers :
    (s.recordTransfer offer fate).transfers = s.transfers ++ [{ offer := offer, fate := fate }] := rfl
end sink

section reset
variable (s : State)
@[simp] theorem State.applyReset_seb : s.applyReset.seb = Seb.reset := rfl
@[simp] theorem State.applyReset_sdb : s.applyReset.sdb = Sdb.reset := rfl
@[simp] theorem State.applyReset_waiting : s.applyReset.waiting = none := rfl
@[simp] theorem State.applyReset_now : s.applyReset.now = s.now := rfl
@[simp] theorem State.applyReset_script : s.applyReset.script = s.script := rfl
@[simp] theorem State.applyReset_responses : s.applyReset.responses = s.responses := rfl
end reset

section queue
variable (d : Sdb) (vs : List Val5) (off : Offset)
@[simp] theorem Sdb.queueGroup_qbuf : (d.queueGroup vs).qbuf = queueBytes (unpackGroup vs) := rfl
@[simp] theorem Sdb.queueGroup_qidx : (d.queueGroup vs).qidx = 0 := rfl
@[simp] theorem Sdb.queueGroup_qcnt : (d.queueGroup vs).qcnt = BitVec.ofNat 3 (groupBytes vs.length) := rfl
@[simp] theorem Sdb.queueGroup_sacc : (d.queueGroup vs).sacc = d.sacc := rfl
@[simp] theorem Sdb.queueGroup_scnt : (d.queueGroup vs).scnt = d.scnt := rfl
@[simp] theorem Sdb.queueGroup_dst : (d.queueGroup vs).dst = d.dst := rfl
@[simp] theorem Sdb.queueGroup_pst : (d.queueGroup vs).pst = d.pst := rfl
@[simp] theorem Sdb.queueGroup_poff : (d.queueGroup vs).poff = d.poff := rfl
@[simp] theorem Sdb.queueGroup_perr : (d.queueGroup vs).perr = d.perr := rfl
@[simp] theorem Sdb.queueGroup_soff : (d.queueGroup vs).soff = d.soff := rfl
@[simp] theorem Sdb.corruptAt_dst : (d.corruptAt off).dst = .term := rfl
@[simp] theorem Sdb.corruptAt_pst : (d.corruptAt off).pst = .corrupt := rfl
@[simp] theorem Sdb.corruptAt_poff : (d.corruptAt off).poff = off := rfl
@[simp] theorem Sdb.corruptAt_scnt : (d.corruptAt off).scnt = d.scnt := rfl
@[simp] theorem Sdb.corruptAt_sacc : (d.corruptAt off).sacc = d.sacc := rfl
@[simp] theorem Sdb.corruptAt_qbuf : (d.corruptAt off).qbuf = d.qbuf := rfl
@[simp] theorem Sdb.corruptAt_qidx : (d.corruptAt off).qidx = d.qidx := rfl
@[simp] theorem Sdb.corruptAt_qcnt : (d.corruptAt off).qcnt = d.qcnt := rfl
@[simp] theorem Sdb.corruptAt_perr : (d.corruptAt off).perr = d.perr := rfl
@[simp] theorem Sdb.corruptAt_soff : (d.corruptAt off).soff = d.soff := rfl
end queue

end Sys2Proof.Machine
end

