-- ==== Sys2Proof/Laws/Ops.lean ====
section
/-! SUPPORT. One lemma per shared operation that says everything it can do; proofs about meanings cite these instead of
unfolding the operations. -/

namespace Sys2Proof.Machine

/-- A response always completes the command. -/
theorem respond_next {st : Status} {res : Bus} {rlen : BitVec 4} {s t : State} :
    respond st res rlen s = .next t ↔ t = s.respond st res rlen := by
  simp [respond, eq_comm]

/-- `raise` is a response with RLEN 0 (60_exceptions.md R246). -/
theorem raise_eq_respond (st : Status) (info : Bus) (s : State) : raise st info s = respond st info 0 s := rfl

/-- An illegal word answers ILLEGAL and nothing else (30_encoding.md R76). -/
theorem answerIllegal_next {s t : State} : answerIllegal s = .next t ↔ t = s.respond .illegal 0 0 := respond_next

/-- The three things a sink transfer can do, by the sink's answer (41_stream_encoder.md R141). -/
theorem sinkTransfer_cases (i : Instr) (syms : List Byte) (onAccept : State → Result) (onFail : Byte → State → Result)
    (s : State) :
    (s.now.ans = none ∧ sinkTransfer i syms onAccept onFail s = .next (s.await i (offerOf syms))) ∨
    (s.now.ans = some .accept ∧
      sinkTransfer i syms onAccept onFail s = onAccept (s.recordTransfer (offerOf syms) .accepted)) ∨
    (∃ c, s.now.ans = some (.fail c) ∧
      sinkTransfer i syms onAccept onFail s = onFail c (s.recordTransfer (offerOf syms) (.failed c))) := by
  unfold sinkTransfer
  rcases s.now.ans with _ | _ | c
  · exact .inl ⟨rfl, rfl⟩
  · exact .inr (.inl ⟨rfl, rfl⟩)
  · exact .inr (.inr ⟨c, rfl, rfl⟩)

/-- What a failed transfer leaves (41_stream_encoder.md R145). -/
theorem sinkFailed_next {c : Byte} {s t : State} :
    sinkFailed c s = .next t ↔
      t = (s.withSeb { s.seb with errv := true, errc := c }).respond .ioerr (zextByte c) 0 := respond_next

/-- The three things input admission can do (42_stream_decoder.md R176). -/
theorem admitInput_cases (consume : Sdb → Sdb) (s : State) :
    (s.sdb.dst = .term ∧ admitInput consume s = .next (s.respond .closed 0 0)) ∨
    (s.sdb.dst ≠ .term ∧ s.sdb.qcnt ≠ 0 ∧ admitInput consume s = .next (s.respond .busy 0 0)) ∨
    (s.sdb.dst ≠ .term ∧ s.sdb.qcnt = 0 ∧
      admitInput consume s = .next ((s.withSdb (consume s.sdb)).respond .ok 0 0)) := by
  unfold admitInput
  by_cases h : s.sdb.dst = .term
  · exact .inl ⟨h, by simp [h, raise, respond]⟩
  · by_cases q : s.sdb.qcnt = 0
    · exact .inr (.inr ⟨h, q, by simp [h, q, respond]⟩)
    · exact .inr (.inl ⟨h, q, by rw [if_neg h, if_pos q]; rfl⟩)

/-- A queued group's bytes number what GroupBytes says (40_codec_core.md R111). -/
theorem unpackGroup_length {vs : List Val5} (h : vs.length ≤ 8) : (unpackGroup vs).length = groupBytes vs.length := by
  simp [unpackGroup, bytesOfFrame, groupBytes]
  omega

/-- A quantum's symbols number what EncodedLength says (40_codec_core.md R102). -/
theorem encodeQuantum_length {bs : List Byte} (h : bs.length ≤ 5) :
    (encodeQuantum bs).length = encodedLength bs.length := by
  simp [encodeQuantum, fieldsOfFrame, encodedLength]
  omega

/-- The number of pending bytes is VCNT while it is legal (10_state.md R26). -/
theorem Seb.pending_length {e : Seb} (h : e.vcnt ≤ 4#3) : e.pending.length = e.vcnt.toNat := by
  have : e.vcnt.toNat ≤ 4 := h
  simp [Seb.pending, this]

/-- The number of values of the current group is SCNT (10_state.md R29). -/
theorem Sdb.group_length (d : Sdb) : d.group.length = d.scnt.toNat := by
  have : d.scnt.toNat < 8 := d.scnt.isLt
  simp [Sdb.group]
  omega

/-- What a step does, by the script. -/
theorem step_of_empty {s : State} (h : s.script = []) : step s = .next s := by simp [step, State.takeInput, h]

/-- What a step does, by the script. -/
theorem step_of_input {s : State} {p : PortInput} {rest : List PortInput} (h : s.script = p :: rest) :
    step s = stepInput { s with now := p, script := rest } := by simp [step, State.takeInput, h]

/-- What the pins select, case by case (70_reset_and_hazards.md R270, R279). -/
theorem select_cases (s : State) :
    (s.now.rst = true ∧ s.select = .reset) ∨
    (∃ w, s.now.rst = false ∧ s.waiting = some w ∧ s.select = .run w.cmd) ∨
    (∃ w, s.now.rst = false ∧ s.waiting = none ∧ s.now.cmd = some w ∧ s.select = selectWord w) ∨
    (s.now.rst = false ∧ s.waiting = none ∧ s.now.cmd = none ∧ s.select = .idle) := by
  cases hr : s.now.rst <;> cases hw : s.waiting <;> cases hc : s.now.cmd <;> simp [State.select, hr, hw, hc]

end Sys2Proof.Machine
end

