-- ==== Sys2Proof/Laws/PerInstr.lean ====
section
/-! SUPPORT. The family EncodeFields: for each command, the fields of its word are the ones its row of 30_encoding.md R75
gives. -/

namespace Sys2Proof.Laws

/-- A word as a number, from its fields (30_encoding.md R70: `OP << 12 | ARG << 8 | DATA`). -/
theorem toNat_of_fields (op arg : BitVec 4) (data : Byte) :
    BitVec.toNat (w := 16) (op ++ arg ++ data) = op.toNat * 4096 + arg.toNat * 256 + data.toNat := by
  have ha : arg.toNat < 2 ^ 4 := arg.isLt
  have hd : data.toNat < 2 ^ 8 := data.isLt
  show BitVec.toNat (w := 4 + 4 + 8) (op ++ arg ++ data) = _
  rw [BitVec.toNat_append, BitVec.toNat_append, ← Nat.shiftLeft_add_eq_or_of_lt ha,
    ← Nat.shiftLeft_add_eq_or_of_lt hd, Nat.shiftLeft_eq, Nat.shiftLeft_eq]
  omega

/-- The three fields of a word put together are read back (30_encoding.md R70). -/
theorem fields_of_word (op arg : BitVec 4) (data : Byte) :
    opField (op ++ arg ++ data) = op ∧ argField (op ++ arg ++ data) = arg ∧ dataField (op ++ arg ++ data) = data := by
  have h := toNat_of_fields op arg data
  have ho : op.toNat < 16 := op.isLt
  have ha : arg.toNat < 16 := arg.isLt
  have hd : data.toNat < 256 := data.isLt
  refine ⟨?_, ?_, ?_⟩ <;>
    (apply BitVec.eq_of_toNat_eq
     simp only [opField, argField, dataField, BitVec.extractLsb'_toNat, Nat.shiftRight_eq_div_pow, h]
     omega)

namespace EncodeFields

/-- The fields of a command's word are its OP, its ARG and its DATA. -/
def Statement (i : Instr) : Prop :=
  opField (encode i) = opcodeOf i ∧ argField (encode i) = argOf i ∧ dataField (encode i) = dataOf i

theorem encq (k : BitVec 4) : Statement (.encq k) := fields_of_word _ _ _
theorem decq (j : BitVec 4) : Statement (.decq j) := fields_of_word _ _ _
theorem elen : Statement .elen := fields_of_word _ _ _
theorem dlen : Statement .dlen := fields_of_word _ _ _
theorem ewrite (b : Byte) : Statement (.ewrite b) := fields_of_word _ _ _
theorem eclose : Statement .eclose := fields_of_word _ _ _
theorem erst : Statement .erst := fields_of_word _ _ _
theorem estat : Statement .estat := fields_of_word _ _ _
theorem dpush (s : Byte) : Statement (.dpush s) := fields_of_word _ _ _
theorem dend : Statement .dend := fields_of_word _ _ _
theorem dfail (c : Byte) : Statement (.dfail c) := fields_of_word _ _ _
theorem dread : Statement .dread := fields_of_word _ _ _
theorem drst : Statement .drst := fields_of_word _ _ _
theorem dstat : Statement .dstat := fields_of_word _ _ _

end EncodeFields

end Sys2Proof.Laws
end

