-- ==== Sys2Proof/Laws/Runs.lean ====
section
/-! SUPPORT. Runs step by step and cut in two, and the last answer of a run, so that no proof unfolds a run. -/

namespace Sys2Proof.Machine

@[simp] theorem runSteps_zero (s : State) : runSteps 0 s = .next s := rfl

@[simp] theorem exchanges_zero (s : State) : exchanges 0 s = [] := rfl

/-- One step, then the rest. -/
theorem runSteps_succ {n : Nat} {s t : State} (h : step s = .next t) : runSteps (n + 1) s = runSteps n t := by
  simp [runSteps, h]

/-- The exchanges of one step, then those of the rest. -/
theorem exchanges_succ {n : Nat} {s t : State} (h : step s = .next t) :
    exchanges (n + 1) s = exchangeOf s t ++ exchanges n t := by
  simp [exchanges, h]

/-- A run that answers a next state took a first step that did. -/
theorem runSteps_succ_next {n : Nat} {s u : State} (h : runSteps (n + 1) s = .next u) :
    ∃ t, step s = .next t ∧ runSteps n t = .next u := by
  cases hs : step s with
  | next t => exact ⟨t, rfl, by rwa [runSteps_succ hs] at h⟩
  | fault r => simp [runSteps, hs] at h
  | refused r => simp [runSteps, hs] at h

/-- A run cut in two. -/
theorem runSteps_add {m n : Nat} {s t : State} (h : runSteps m s = .next t) :
    runSteps (m + n) s = runSteps n t := by
  induction m generalizing s with
  | zero => cases h; simp
  | succ m ih =>
    obtain ⟨u, hs, hu⟩ := runSteps_succ_next h
    rw [Nat.succ_add, runSteps_succ hs, ih hu]

/-- The exchanges of a run cut in two. -/
theorem exchanges_add {m n : Nat} {s t : State} (h : runSteps m s = .next t) :
    exchanges (m + n) s = exchanges m s ++ exchanges n t := by
  induction m generalizing s with
  | zero => cases h; simp
  | succ m ih =>
    obtain ⟨u, hs, hu⟩ := runSteps_succ_next h
    rw [Nat.succ_add, exchanges_succ hs, exchanges_succ hs, ih hu, List.append_assoc]

/-- The exchanges of a step, when the step's one response is known. -/
theorem exchangeOf_of_input {s t : State} {p : PortInput} {rest : List PortInput} {rs : List Response}
    (h : s.script = p :: rest) (hr : t.responses = s.responses ++ rs) :
    exchangeOf s t =
      rs.map fun r => { cmd := ({ s with now := p, script := rest } : State).select.command, response := r } := by
  simp [exchangeOf, State.takeInput, h, hr]

/-- The last answer is the later part's, if that part has one. -/
theorem lastAnswer_append_of_some {i : Instr} {es fs : List Exchange} {r : Response} (h : lastAnswer i fs = some r) :
    lastAnswer i (es ++ fs) = some r := by
  simp only [lastAnswer, Option.map_eq_some_iff] at h ⊢
  obtain ⟨e, he, hr⟩ := h
  exact ⟨e, by simp [List.filter_append, List.getLast?_append, he], hr⟩

/-- Delivered bytes add up. -/
@[simp] theorem deliveredBytes_append (es fs : List Exchange) :
    deliveredBytes (es ++ fs) = deliveredBytes es ++ deliveredBytes fs := by
  simp [deliveredBytes, List.filterMap_append]

end Sys2Proof.Machine
end

