-- ==== Sys2Proof/Machine/Assembly.lean ====
section
/-! DEFINITION. The assembler text of a command (30_encoding.md R78) and the pseudo-instructions' expansions (R79). Notation
only: nothing in the machine reads it. A byte operand is written in the form 0xNN (log 20). -/

namespace Sys2Proof.Machine

/-- A hexadecimal digit. -/
def hexDigit (v : BitVec 4) : Char :=
  ("0123456789ABCDEF".toList).getD v.toNat '0'

/-- A byte as `0xNN` (30_encoding.md R78). -/
def hexByte (b : Byte) : List Char := ['0', 'x', hexDigit (b.extractLsb' 4 4), hexDigit (b.extractLsb' 0 4)]

/-- The mnemonic of a command (30_encoding.md R75). -/
def mnemonicOf : Instr → String
  | .encq _ => "ENCQ"
  | .decq _ => "DECQ"
  | .elen => "ELEN"
  | .dlen => "DLEN"
  | .ewrite _ => "EWRITE"
  | .eclose => "ECLOSE"
  | .erst => "ERST"
  | .estat => "ESTAT"
  | .dpush _ => "DPUSH"
  | .dend => "DEND"
  | .dfail _ => "DFAIL"
  | .dread => "DREAD"
  | .drst => "DRST"
  | .dstat => "DSTAT"

/-- The operand of a command as text, if it has one (30_encoding.md R78): a decimal digit, or a hex byte. -/
def operandText : Instr → Option (List Char)
  | .encq k => some [hexDigit k]
  | .decq j => some [hexDigit j]
  | .elen => none
  | .dlen => none
  | .ewrite b => some (hexByte b)
  | .eclose => none
  | .erst => none
  | .estat => none
  | .dpush s => some (hexByte s)
  | .dend => none
  | .dfail c => some (hexByte c)
  | .dread => none
  | .drst => none
  | .dstat => none

/-- One line of assembler: the mnemonic, then at most one operand (30_encoding.md R78). -/
def assemblyLine (i : Instr) : List Char :=
  match operandText i with
  | none => (mnemonicOf i).toList
  | some t => (mnemonicOf i).toList ++ [' '] ++ t

/-- `EWRITES "text"` (30_encoding.md R79); the stop at the first response that is not OK is writeFrom's. -/
def ewrites (text : List Byte) : List Instr := text.map .ewrite

/-- `DPUSHS "text"` (30_encoding.md R79); each is issued only after OK, which is pushFrom's. -/
def dpushs (text : List Byte) : List Instr := text.map .dpush

end Sys2Proof.Machine
end

