-- ==== Sys2Proof/Tests/Slice0.lean ====
section
/-! SUPPORT. The author's own tests: the parameters, the well-formedness smoke test, words written bit by bit, one step of
each command with values from spec/95_test_vectors.md (each test names its vector), and for every obligation with
hypotheses a witness that meets them. -/

namespace Sys2Proof.Tests

open Sys2Proof Sys2Proof.Machine

/-! ### Parameters, well-formedness, encodings -/

/-- 00_scope.md R7: the types have the widths the parameters name. -/
theorem test_widths_are_the_parameters :
    CmdWord = BitVec Config.cmdW ∧ Bus = BitVec Config.busW ∧ Byte = BitVec Config.errW ∧
    Offset = BitVec Config.offW ∧ (Seb.reset.acc.size, Sdb.reset.sacc.size, Sdb.reset.qbuf.size) =
      (Config.sebDepth, Config.sdbDepth, Config.qDepth) := ⟨rfl, rfl, rfl, rfl, rfl⟩

/-- 00_scope.md R7: `LEN_W`, by the operand's reach (V63's operand and one bit more). -/
theorem test_length_operand_width :
    operandCount 0xFFFFFFFF#64 = 2 ^ Config.lenW - 1 ∧ operandCount 0x100000000#64 = 0 := by decide

/-- 30_encoding.md R76 step 4: a quantum of 6 bytes, one of 15, a group of 9 symbols are refused. -/
theorem test_ill_formed_refused :
    (Instr.encq 6).wellFormed = false ∧ (Instr.encq 15).wellFormed = false ∧ (Instr.decq 9).wellFormed = false ∧
    (Instr.encq 5).wellFormed = true ∧ (Instr.decq 8).wellFormed = true := by decide

/-- What the decoder reads, for comparison. -/
def read (w : CmdWord) : Option Instr := decodeTableWord 16 w.toNat

/-- Every command's word, written bit by bit from 30_encoding.md R71 and R75 (OP, ARG, DATA). -/
theorem test_decode_words :
    read 0b0001_0101_00000000 = some (.encq 5) ∧ read 0b0010_1000_00000000 = some (.decq 8) ∧
    read 0b0011_0000_00000000 = some .elen ∧ read 0b0100_0000_00000000 = some .dlen ∧
    read 0b0101_0000_01100110 = some (.ewrite 0x66) ∧ read 0b0110_0000_00000000 = some .eclose ∧
    read 0b0111_0000_00000000 = some .erst ∧ read 0b1000_0000_00000000 = some .estat ∧
    read 0b1001_0000_01000011 = some (.dpush 0x43) ∧ read 0b1010_0000_00000000 = some .dend ∧
    read 0b1011_0000_00000111 = some (.dfail 0x07) ∧ read 0b1100_0000_00000000 = some .dread ∧
    read 0b1101_0000_00000000 = some .drst ∧ read 0b1110_0000_00000000 = some .dstat := by decide

/-- The encoder against words of 30_encoding.md R75. -/
theorem test_encode_words :
    [Instr.encq 5, .decq 8, .elen, .dlen, .ewrite 0x66, .eclose, .erst, .estat, .dpush 0x43, .dend, .dfail 7, .dread,
      .drst, .dstat].map encode =
    [0x1500, 0x2800, 0x3000, 0x4000, 0x5066, 0x6000, 0x7000, 0x8000, 0x9043, 0xA000, 0xB007, 0xC000, 0xD000, 0xE000] := by
  decide

/-- V80 to V100: one word for each check of 30_encoding.md R76 that a command's word can fail. -/
theorem test_illegal_words :
    [0x0000, 0x0FFF, 0xF000, 0xF123, 0x1600, 0x1F00, 0x2900, 0x1501, 0x2801, 0x3100, 0x4001, 0x5166, 0x6001, 0x7100,
      0x8080, 0x9F43, 0xA0FF, 0xB107, 0xC001, 0xD100, 0xE001].map read = List.replicate 21 none := by decide

/-- A row wider than a command word is no command (log 14). -/
theorem test_wide_row : decodeTableWord 32 0x00001500 = none := by decide

/-- 30_encoding.md R78: assembler lines. -/
theorem test_assembly_lines :
    assemblyLine (.encq 5) = "ENCQ 5".toList ∧ assemblyLine (.dpush 0x4F) = "DPUSH 0x4F".toList ∧
    assemblyLine .dread = "DREAD".toList := by decide

/-! ### One step of each command -/

/-- The state with one command presented. -/
def presented (w : CmdWord) (opnd : Bus) (ans : Option SinkAnswer) (s : State) : State :=
  { s with script := [{ rst := false, cmd := some w, opnd := opnd, ans := ans }] }

/-- The next state of a step, if it answers one. -/
def nextOf : Result → Option State
  | .next t => some t
  | .fault _ => none
  | .refused _ => none

/-- A next state that `nextOf` shows is the step's answer. -/
theorem next_of_nextOf {r : Result} {t : State} (h : nextOf r = some t) : r = .next t := by
  cases r <;> simp_all [nextOf]

/-- One command from a state: the response, ESR and DSR after it, and the transfers made. -/
def run1 (w : CmdWord) (opnd : Bus) (ans : Option SinkAnswer) (s : State) :
    Option (List Response × Bus × Bus × List TransferRecord) :=
  (nextOf (step (presented w opnd ans s))).map fun t => (t.responses, t.seb.esr, t.sdb.dsr, t.transfers)

/-- `foob` pending (after S2 step 4). -/
def foobPending : Seb := { Seb.reset with acc := #v[0x66, 0x6F, 0x6F, 0x62], vcnt := 4 }

/-- An encode buffer with a stored sink failure 0x09 (P4 after step 5). -/
def failedSeb : Seb := { foobPending with errv := true, errc := 0x09 }

/-- A closed encode buffer. -/
def closedSeb : Seb := { Seb.reset with closed := true }

/-- `C R 0` pending (after P2 step 3). -/
def cr0Pending : Sdb := { Sdb.reset with sacc := #v[12, 24, 0, 0, 0, 0, 0], scnt := 3, soff := 3 }

/-- `CSQPYRK` pending, one symbol short of a group (W8). -/
def sevenPending : Sdb := { Sdb.reset with sacc := #v[12, 25, 23, 22, 30, 24, 19], scnt := 7, soff := 7 }

/-- One symbol, `C`, pending. -/
def lonePending : Sdb := { Sdb.reset with sacc := #v[12, 0, 0, 0, 0, 0, 0], scnt := 1, soff := 1 }

/-- `fooba` queued, nothing delivered, the source not ended. -/
def fullQueue : Sdb := { Sdb.reset with qbuf := #v[0x66, 0x6F, 0x6F, 0x62, 0x61], qcnt := 5, soff := 8 }

/-- The last byte of a queue of five, the end of the source recorded. -/
def lastQueued : Sdb := { fullQueue with qidx := 4, qcnt := 1, dst := .term, pst := .eof }

/-- Padding seen, the queue empty. -/
def padded : Sdb := { Sdb.reset with dst := .pad, soff := 1 }

/-- The end of the source recorded. -/
def ended : Sdb := { Sdb.reset with dst := .term, pst := .eof, soff := 8 }

/-- Corrupt Input recorded at offset 4 (P3). -/
def corrupted : Sdb := { Sdb.reset with dst := .term, pst := .corrupt, poff := 4, soff := 5 }

/-- A source failure 0x07 recorded. -/
def sourceFailed : Sdb := { Sdb.reset with dst := .term, pst := .ioerr, perr := 0x07, soff := 1 }

/-- A machine with these units, OPND and sink answer on the pins. -/
def bench (e : Seb) (d : Sdb) (opnd : Bus) (ans : Option SinkAnswer) : State :=
  { State.reset with seb := e, sdb := d, now := { PortInput.idle with opnd := opnd, ans := ans } }

/-- V5: `ENCQ 4`; V14: bytes past k and OPND[63:40] ignored. -/
theorem test_encq :
    run1 0x1400 0x000000666F6F6261 none .reset = some ([⟨.ok, 0x4353515059524700, 7⟩], 0, 0, []) ∧
    run1 0x1100 0xFFFFFF66FFFFFFFF none .reset = some ([⟨.ok, 0x4352000000000000, 2⟩], 0, 0, []) := by decide

/-- V27: `DECQ 6`; V34: first invalid lane. -/
theorem test_decq :
    run1 0x2600 0x4353515059524B31 none .reset = some ([⟨.ok, 0x000000666F6F0000, 3⟩], 0, 0, []) ∧
    run1 0x2800 0x43532A5059524B31 none .reset = some ([⟨.corrupt, 2, 0⟩], 0, 0, []) := by decide

/-- V43: aliases in both cases; V32: a lone symbol. -/
theorem test_decq_alias_lone :
    run1 0x2800 0x6F4F69496C4C3031 none .reset = some ([⟨.ok, 0x0000000002108401, 5⟩], 0, 0, []) ∧
    run1 0x2100 0x4300000000000000 none .reset = some ([⟨.corrupt, 0, 0⟩], 0, 0, []) := by decide

/-- V63 and V64. -/
theorem test_elen :
    run1 0x3000 0x00000000FFFFFFFF none .reset = some ([⟨.ok, 0x199999998, 0⟩], 0, 0, []) ∧
    run1 0x3000 0xFFFFFFFF00000005 none .reset = some ([⟨.ok, 8, 0⟩], 0, 0, []) := by decide

/-- V78 and V79. -/
theorem test_dlen :
    run1 0x4000 0x00000000FFFFFFFF none .reset = some ([⟨.ok, 0x9FFFFFFF, 0⟩], 0, 0, []) ∧
    run1 0x4000 0xFFFFFFFF00000005 none .reset = some ([⟨.ok, 3, 0⟩], 0, 0, []) := by decide

/-- P1 step 5: the fifth byte sends the quantum; P4 step 5: the sink fails it. -/
theorem test_ewrite :
    run1 0x5061 0 (some .accept) (bench foobPending .reset 0 none) =
      some ([⟨.ok, 0, 0⟩], 0, 0, [⟨⟨0x4353515059524B31, 8⟩, .accepted⟩]) ∧
    run1 0x5061 0 (some (.fail 9)) (bench foobPending .reset 0 none) =
      some ([⟨.ioerr, 9, 0⟩], 0x914, 0, [⟨⟨0x4353515059524B31, 8⟩, .failed 9⟩]) := by decide

/-- V101 and S2 step 10: an illegal word wins over the sticky error, and a write after close. -/
theorem test_ewrite_illegal_closed :
    run1 0x5161 0 none (bench failedSeb .reset 0 none) = some ([⟨.illegal, 0, 0⟩], 0x914, 0, []) ∧
    run1 0x5078 0 none (bench closedSeb .reset 0 none) = some ([⟨.closed, 0, 0⟩], 8, 0, []) := by decide

/-- S1 step 18 (the four bytes of `foob`); S2 step 9 (a second close). -/
theorem test_eclose :
    run1 0x6000 0 (some .accept) (bench foobPending .reset 0 none) =
      some ([⟨.ok, 0, 0⟩], 8, 0, [⟨⟨0x4353515059524700, 7⟩, .accepted⟩]) ∧
    run1 0x6000 0 none (bench closedSeb .reset 0 none) = some ([⟨.ok, 0, 0⟩], 8, 0, []) := by decide

/-- P4 steps 8 and 9: ESTAT in the sticky state, and ERST ending it. -/
theorem test_estat_erst :
    run1 0x8000 0 none (bench failedSeb .reset 0 none) = some ([⟨.ok, 0x914, 0⟩], 0x914, 0, []) ∧
    run1 0x7000 0 none (bench failedSeb .reset 0 none) = some ([⟨.ok, 0, 0⟩], 0, 0, []) := by decide

/-- W8: an invalid eighth symbol; 42_stream_decoder.md R179: a valid one queues five bytes (DSR: QCNT 5). -/
theorem test_dpush :
    run1 0x902A 0 none (bench .reset sevenPending 0 none) = some ([⟨.ok, 0, 0⟩], 0, 0x202, []) ∧
    run1 0x9031 0 none (bench .reset sevenPending 0 none) = some ([⟨.ok, 0, 0⟩], 0, 0xA0, []) := by decide

/-- V102 (illegal before CLOSED), and P5 step 4 (BUSY with a byte queued in PAD). -/
theorem test_dpush_illegal_busy :
    run1 0x9143 0 none (bench .reset ended 0 none) = some ([⟨.illegal, 0, 0⟩], 0, 0x102, []) ∧
    run1 0x903D 0 none (bench .reset { padded with qbuf := #v[0x66, 0, 0, 0, 0], qcnt := 1 } 0 none) =
      some ([⟨.busy, 0, 0⟩], 0, 0x21, []) := by decide

/-- 42_stream_decoder.md R190's example (DSR 0x122 after `CR0` and DEND); P3 step 7 (CLOSED). -/
theorem test_dend :
    run1 0xA000 0 none (bench .reset cr0Pending 0 none) = some ([⟨.ok, 0, 0⟩], 0, 0x122, []) ∧
    run1 0xA000 0 none (bench .reset corrupted 0 none) = some ([⟨.closed, 0, 0⟩], 0, 0x202, []) := by decide

/-- 42_stream_decoder.md R184's example (DSR by 10_state.md R32: DST 2, PST 3, PERR 7). -/
theorem test_dfail :
    run1 0xB007 0 none (bench .reset lonePending 0 none) = some ([⟨.ok, 0, 0⟩], 0, 0x070302, []) := by decide

/-- P3 step 6, and the last queued byte before a recorded end (60_exceptions.md R248). -/
theorem test_dread :
    run1 0xC000 0 none (bench .reset corrupted 0 none) = some ([⟨.corrupt, 4, 0⟩], 0, 0x202, []) ∧
    run1 0xC000 0 none (bench .reset lastQueued 0 none) = some ([⟨.ok, 0x61, 1⟩], 0, 0x102, []) := by decide

/-- 42_stream_decoder.md R189's and R184's examples. -/
theorem test_drst_dstat :
    run1 0xD000 0 none (bench .reset corrupted 0 none) = some ([⟨.ok, 0, 0⟩], 0, 0, []) ∧
    run1 0xE000 0 none (bench .reset sourceFailed 0 none) = some ([⟨.ok, 0x070302, 0⟩], 0, 0x070302, []) := by decide

/-- The next step after withFetchWord runs the word it was given, from reset (V2 with OPND 0: byte 0x00 is `00`). -/
theorem test_with_fetch_word :
    (nextOf (step (State.reset.withFetchWord 16 0x1100))).map State.responses =
      some [⟨.ok, 0x3030000000000000, 2⟩] := by decide

/-- 70_reset_and_hazards.md R270: RST during a wait abandons the command and drives no response. -/
theorem test_reset_in_wait :
    (nextOf (step { bench foobPending .reset 0 none with
        waiting := some ⟨.ewrite 0x61, ⟨0x4353515059524B31, 8⟩⟩
        script := [{ rst := true, cmd := some 0x8000, opnd := 0, ans := some .accept }] })).map
      (fun t => (t.seb, t.responses, t.transfers)) =
      some (Seb.reset, [], [⟨⟨0x4353515059524B31, 8⟩, .abandoned⟩]) := by decide

/-- W6, W9, W13: whole sequences (`foobar`, its aliases in lower case, a one-symbol final group). -/
theorem test_sequences :
    encodeSeq [0x66, 0x6F, 0x6F, 0x62, 0x61, 0x72] = [0x43, 0x53, 0x51, 0x50, 0x59, 0x52, 0x4B, 0x31, 0x45, 0x38] ∧
    decodeSeq [0x63, 0x73, 0x71, 0x70, 0x79, 0x72, 0x6B, 0x69, 0x65, 0x38] =
      (.ok, [0x66, 0x6F, 0x6F, 0x62, 0x61, 0x72]) ∧
    decodeSeq [0x43, 0x3D] = (.corrupt 0, []) := by decide

/-! ### Witnesses: states and operands that meet the hypotheses of each obligation, clause by clause -/

/-- A word's three fields as the numbers of WordsDecodeOrAreIllegal. -/
def numbersOf (w : CmdWord) : Nat × Nat × Nat := (w.toNat / 4096, w.toNat / 256 % 16, w.toNat % 256)

theorem witness_DecodeOfEncode :
    (Instr.encq 5).wellFormed = true ∧ (Instr.decq 8).wellFormed = true ∧ (Instr.dfail 0xFF).wellFormed = true := by decide

theorem witness_EncodeOfDecode : decode 0x1500 = .ok (.encq 5) ∧ decode 0xB0FF = .ok (.dfail 0xFF) := ⟨rfl, rfl⟩

/-- The clauses of WordsDecodeOrAreIllegal in their order, each at the ends of its range. -/
theorem witness_WordsDecodeOrAreIllegal :
    [0x0FFF, 0xF000].map numbersOf = [(0, 15, 255), (15, 0, 0)] ∧
    [0x3F00, 0xE101].map numbersOf = [(3, 15, 0), (14, 1, 1)] ∧
    [0x15FF, 0x2001, 0x3001, 0xE0FF].map numbersOf = [(1, 5, 255), (2, 0, 1), (3, 0, 1), (14, 0, 255)] ∧
    [0x1600, 0x1F00, 0x2900, 0x2F00].map numbersOf = [(1, 6, 0), (1, 15, 0), (2, 9, 0), (2, 15, 0)] ∧
    [0x1000, 0x1500, 0x2000, 0x2800].map numbersOf = [(1, 0, 0), (1, 5, 0), (2, 0, 0), (2, 8, 0)] ∧
    [0x5000, 0x50FF, 0x9000, 0xB0FF].map numbersOf = [(5, 0, 0), (5, 0, 255), (9, 0, 0), (11, 0, 255)] ∧
    [0x3000, 0x4000, 0x6000, 0x7000, 0x8000, 0xA000, 0xC000, 0xD000, 0xE000].map numbersOf =
      [(3, 0, 0), (4, 0, 0), (6, 0, 0), (7, 0, 0), (8, 0, 0), (10, 0, 0), (12, 0, 0), (13, 0, 0), (14, 0, 0)] := by decide

theorem witness_WordsDecodeOrAreIllegal_answer :
    decode 0x1600 = .error .lengthOutOfRange ∧
    ∃ p rest, (presented 0x1600 0 none .reset).script = p :: rest ∧ p.rst = false ∧ p.cmd = some 0x1600 ∧
      (presented 0x1600 0 none .reset).waiting = none := ⟨rfl, _, _, rfl, rfl, rfl, rfl⟩

theorem witness_StepRunsDecodedCommand :
    decode 0x50FF = .ok (.ewrite 0xFF) ∧
    ∃ p rest, (presented 0x50FF 0 none .reset).script = p :: rest ∧ p.rst = false ∧ p.cmd = some 0x50FF ∧
      (presented 0x50FF 0 none .reset).waiting = none := ⟨rfl, _, _, rfl, rfl, rfl, rfl⟩

theorem witness_EveryStepGoesOn : State.reset.script = [] := rfl

/-- EWRITE of the fifth byte waiting for the sink, with these inputs to come. -/
def waitingEwrite (script : List PortInput) : State :=
  { bench foobPending .reset 0 none with
    waiting := some ⟨.ewrite 0x61, ⟨0x4353515059524B31, 8⟩⟩, script := script }

theorem witness_ResetGivesResetValues :
    ∃ p rest, (waitingEwrite [{ PortInput.idle with rst := true, cmd := some 0x8000 }]).script = p :: rest ∧
      p.rst = true := ⟨_, _, rfl, rfl⟩

theorem witness_WaitingChangesNothing :
    (waitingEwrite [{ PortInput.idle with cmd := some 0xC000 }]).Inv ∧
    (waitingEwrite [{ PortInput.idle with cmd := some 0xC000 }]).waiting.isSome = true ∧
    ∃ p rest, (waitingEwrite [{ PortInput.idle with cmd := some 0xC000 }]).script = p :: rest ∧ p.rst = false ∧
      p.ans = none := ⟨by decide, rfl, _, _, rfl, rfl, rfl⟩

theorem witness_LateAnswerActsAsPromptAnswer :
    ∃ s w p rest, s.now.ans = none ∧ exec (.ewrite 0x61) s = .next w ∧ w.waiting.isSome = true ∧
      w.script = p :: rest ∧ p.rst = false ∧ p.ans = some (.fail 9) :=
  ⟨{ bench foobPending .reset 0 none with script := [{ PortInput.idle with ans := some (.fail 9) }] },
    _, _, _, rfl, rfl, rfl, rfl, rfl, rfl⟩

theorem witness_EncqAnswersSymbols : (0#4 : BitVec 4) ≤ 5#4 ∧ (5#4 : BitVec 4) ≤ 5#4 := by decide

/-- V33 and V35 (an invalid lane, first and last), a lone symbol, and V21 and V29 (no symbol, eight symbols). -/
theorem witness_DecqAnswersBytesOrLane :
    (dt (BitVec.ofNat 8 (laneNat 0x2A00000000000000 0)) = none) ∧
    (dt (BitVec.ofNat 8 (laneNat 0x4353515059524B55 7)) = none ∧
      ∀ m < 7, dt (BitVec.ofNat 8 (laneNat 0x4353515059524B55 m)) ≠ none) ∧
    ((1#4 : BitVec 4) ≤ 8#4 ∧ (0#4 : BitVec 4) ≠ 1#4 ∧ (8#4 : BitVec 4) ≤ 8#4 ∧ (8#4 : BitVec 4) ≠ 1#4) ∧
    ∃ v : Nat → Val5, ∀ i < 8, dt (BitVec.ofNat 8 (laneNat 0x4353515059524B31 i)) = some (v i) :=
  ⟨by decide, by decide, by decide, fun i => [12, 25, 23, 22, 30, 24, 19, 1].getD i 0, by decide⟩

theorem witness_LengthOutOfRangeAnswersIllegal :
    (5#4 : BitVec 4) < 6#4 ∧ (5#4 : BitVec 4) < 15#4 ∧ (8#4 : BitVec 4) < 9#4 := by decide

theorem witness_LengthsAreExact :
    (0xFFFFFFFF : Nat) = (bench .reset .reset 0x00000001FFFFFFFF none).now.opnd.toNat % 2 ^ 32 := by decide

/-- The four cases of EWRITE: sticky, closed, absorbing (VCNT 0 and 3), completing (each answer). -/
theorem witness_EwriteEffect :
    failedSeb.errv = true ∧ (closedSeb.errv = false ∧ closedSeb.closed = true) ∧
    (Seb.reset.errv = false ∧ Seb.reset.closed = false ∧ Seb.reset.vcnt < 4#3) ∧
    (3#3 < 4#3) ∧
    (foobPending.errv = false ∧ foobPending.closed = false ∧ foobPending.vcnt = 4#3) ∧
    ((bench foobPending .reset 0 (some .accept)).now.ans = some .accept ∧
      (bench foobPending .reset 0 (some (.fail 9))).now.ans = some (.fail 9) ∧
      (bench foobPending .reset 0 none).now.ans = none) := by decide

/-- The four cases of ECLOSE: sticky, closed, nothing pending, one and four bytes pending. -/
theorem witness_EcloseEffect :
    failedSeb.errv = true ∧ (closedSeb.errv = false ∧ closedSeb.closed = true) ∧
    (Seb.reset.errv = false ∧ Seb.reset.closed = false ∧ Seb.reset.vcnt = 0) ∧
    (foobPending.errv = false ∧ foobPending.closed = false ∧ foobPending.vcnt ≠ 0 ∧ foobPending.vcnt ≤ 4#3) ∧
    ((1#3 : BitVec 3) ≠ 0 ∧ (1#3 : BitVec 3) ≤ 4#3) := by decide

theorem witness_SinkFailureIsSticky :
    (∃ t, exec .eclose (bench foobPending .reset 0 (some (.fail 9))) = .next t ∧
      t.transfers ≠ (bench foobPending .reset 0 (some (.fail 9))).transfers) ∧
    (bench failedSeb .reset 0 none).seb.errv = true ∧
    (presented 0x8000 0 none (bench failedSeb .reset 0 none)).nextIsNot .erst ∧
    ∃ t, step (presented 0x8000 0 none (bench failedSeb .reset 0 none)) = .next t :=
  ⟨⟨_, rfl, by decide⟩, rfl, by intro u h; cases h; decide, _, rfl⟩

theorem witness_InputAdmission :
    ended.dst = .term ∧ (fullQueue.dst ≠ .term ∧ fullQueue.qcnt ≠ 0) ∧ (padded.dst ≠ .term ∧ padded.qcnt = 0) ∧
    ∃ b, Instr.dpush 0x3D = .dpush b := ⟨by decide, by decide, by decide, _, rfl⟩

/-- DPUSH refused, and its eight cases with an empty queue, at SCNT 0, 1, 2, 6 and 7. -/
theorem witness_DpushEffect :
    ended.dst = .term ∧ (fullQueue.dst ≠ .term ∧ fullQueue.qcnt ≠ 0) ∧
    (Sdb.reset.qcnt = 0 ∧ Sdb.reset.dst = .run ∧ Sdb.reset.scnt = 0) ∧
    (lonePending.qcnt = 0 ∧ lonePending.dst = .run ∧ lonePending.scnt = 1#3) ∧
    (cr0Pending.qcnt = 0 ∧ cr0Pending.dst = .run ∧ 2#3 ≤ cr0Pending.scnt ∧ 2#3 ≤ (2#3 : BitVec 3)) ∧
    ((0x2A#8 : Byte) ≠ 0x3D#8 ∧ dt 0x2A = none ∧ dt 0xFF = none) ∧
    (dt 0x30 = some 0 ∧ dt 0x7A = some 31 ∧ (6#3 : BitVec 3) < 7#3) ∧
    (sevenPending.qcnt = 0 ∧ sevenPending.dst = .run ∧ sevenPending.scnt = 7#3) ∧
    (padded.qcnt = 0 ∧ padded.dst = .pad ∧ (0x43#8 : Byte) ≠ 0x3D#8) := by decide

theorem witness_DendEffect :
    ended.dst = .term ∧ (fullQueue.dst ≠ .term ∧ fullQueue.qcnt ≠ 0) ∧
    (Sdb.reset.qcnt = 0 ∧ Sdb.reset.dst = .run ∧ Sdb.reset.scnt = 0) ∧
    (lonePending.qcnt = 0 ∧ lonePending.dst = .run ∧ lonePending.scnt = 1#3) ∧
    (sevenPending.qcnt = 0 ∧ sevenPending.dst = .run ∧ 2#3 ≤ sevenPending.scnt) ∧
    (padded.qcnt = 0 ∧ padded.dst = .pad) := by decide

theorem witness_DfailEffect :
    ended.dst = .term ∧ (fullQueue.dst ≠ .term ∧ fullQueue.qcnt ≠ 0) ∧ (padded.dst ≠ .term ∧ padded.qcnt = 0) := by decide

theorem witness_DreadEffect :
    (lastQueued.Inv ∧ lastQueued.qcnt ≠ 0) ∧ (fullQueue.Inv ∧ fullQueue.qcnt ≠ 0) ∧
    (padded.Inv ∧ padded.qcnt = 0 ∧ padded.dst ≠ .term) ∧
    (ended.Inv ∧ ended.qcnt = 0 ∧ ended.dst = .term ∧ ended.pst = .eof) ∧
    (corrupted.Inv ∧ corrupted.qcnt = 0 ∧ corrupted.dst = .term ∧ corrupted.pst = .corrupt) ∧
    (sourceFailed.Inv ∧ sourceFailed.qcnt = 0 ∧ sourceFailed.dst = .term ∧ sourceFailed.pst = .ioerr) := by decide

/-- A full queue to be drained by five DREADs. -/
def drainState : State :=
  { bench .reset fullQueue 0 none with script := List.replicate 5 (inputOf .dread 0 none) }

theorem witness_QueueDrainsInOrder :
    drainState.Inv ∧ drainState.waiting = none ∧ 5 = drainState.sdb.qcnt.toNat ∧
    drainState.script = List.replicate 5 (inputOf .dread 0 none) := by decide

theorem witness_UnitsAreIndependent :
    (∃ t, exec (.dpush 0x43) (bench failedSeb .reset 0 none) = .next t) ∧
    (Instr.dpush 0x43).component ≠ .streamingEncodeBuffer ∧ (Instr.ewrite 0).component ≠ .streamingDecodeBuffer ∧
    (∃ t t', exec (.ewrite 0x61) (bench foobPending .reset 0 none) = .next t ∧
      exec (.ewrite 0x61) (bench foobPending fullQueue 7 none) = .next t' ∧
      (bench foobPending .reset 0 none).now.ans = (bench foobPending fullQueue 7 none).now.ans ∧
      (bench foobPending .reset 0 none).waiting = (bench foobPending fullQueue 7 none).waiting) ∧
    (∃ t t', exec .dread (bench .reset fullQueue 0 none) = .next t ∧ exec .dread (bench failedSeb fullQueue 7 none) = .next t' ∧
      Instr.dread.component = .streamingDecodeBuffer) ∧
    (∃ t t', exec .elen (bench .reset .reset 9 none) = .next t ∧ exec .elen (bench failedSeb fullQueue 9 none) = .next t' ∧
      Instr.elen.component ≠ .streamingEncodeBuffer ∧ Instr.elen.component ≠ .streamingDecodeBuffer) :=
  ⟨⟨_, rfl⟩, by decide, by decide, ⟨_, _, rfl, rfl, rfl, rfl⟩, ⟨_, _, rfl, rfl, rfl⟩, ⟨_, _, rfl, rfl, by decide, by decide⟩⟩

/-- A command executed in a state of the invariant and answered with this response. -/
def Answers (i : Instr) (s : State) (r : Response) : Prop :=
  s.Inv ∧ i.wellFormed = true ∧ ∃ t, exec i s = .next t ∧ t.responses = s.responses ++ [r]

/-- Each non-OK status of 60_exceptions.md R244, by each of its causes. -/
theorem witness_StatusCauses :
    Answers .dread (bench .reset .reset 0 none) ⟨.again, 0, 0⟩ ∧
    Answers .dend (bench .reset fullQueue 0 none) ⟨.busy, 0, 0⟩ ∧
    Answers .dread (bench .reset ended 0 none) ⟨.eof, 0, 0⟩ ∧
    Answers (.decq 1) (bench .reset .reset 0x4300000000000000 none) ⟨.corrupt, 0, 0⟩ ∧
    Answers (.decq 8) (bench .reset .reset 0x4353515059524B55 none) ⟨.corrupt, 7, 0⟩ ∧
    Answers .dread (bench .reset corrupted 0 none) ⟨.corrupt, 4, 0⟩ ∧
    Answers (.ewrite 0x61) (bench failedSeb .reset 0 none) ⟨.ioerr, 9, 0⟩ ∧
    Answers .eclose (bench foobPending .reset 0 (some (.fail 5))) ⟨.ioerr, 5, 0⟩ ∧
    Answers .dread (bench .reset sourceFailed 0 none) ⟨.ioerr, 7, 0⟩ ∧
    Answers (.ewrite 0x78) (bench closedSeb .reset 0 none) ⟨.closed, 0, 0⟩ ∧
    Answers (.dfail 0) (bench .reset ended 0 none) ⟨.closed, 0, 0⟩ :=
  ⟨⟨by decide, rfl, _, rfl, by decide⟩, ⟨by decide, rfl, _, rfl, by decide⟩, ⟨by decide, rfl, _, rfl, by decide⟩,
   ⟨by decide, rfl, _, rfl, by decide⟩, ⟨by decide, rfl, _, rfl, by decide⟩, ⟨by decide, rfl, _, rfl, by decide⟩,
   ⟨by decide, rfl, _, rfl, by decide⟩, ⟨by decide, rfl, _, rfl, by decide⟩, ⟨by decide, rfl, _, rfl, by decide⟩,
   ⟨by decide, rfl, _, rfl, by decide⟩, ⟨by decide, rfl, _, rfl, by decide⟩⟩

/-- RefusalsAndReadsChangeNothing: AGAIN, BUSY and CLOSED are answered as above; a length out of range, a sticky IOERR and
a status read here. -/
theorem witness_RefusalsAndReadsChangeNothing :
    (∃ t, exec (.encq 6) State.reset = .next t ∧ t.responses = State.reset.responses ++ [⟨.illegal, 0, 0⟩]) ∧
    (∃ t, exec .eclose (bench failedSeb .reset 0 none) = .next t ∧ failedSeb.errv = true ∧
      t.responses = (bench failedSeb .reset 0 none).responses ++ [⟨.ioerr, 9, 0⟩]) ∧
    (∃ t, exec .estat (bench failedSeb .reset 0 none) = .next t ∧
      t.responses = (bench failedSeb .reset 0 none).responses ++ [⟨.ok, 0x914, 0⟩]) :=
  ⟨⟨_, rfl, rfl⟩, ⟨_, rfl, rfl, rfl⟩, ⟨_, rfl, rfl⟩⟩

theorem witness_FirstFailureWins :
    (∃ t, step (presented 0xB005 0 none (bench failedSeb corrupted 0 none)) = .next t) ∧ corrupted.dst = .term ∧
    failedSeb.errv = true ∧ (presented 0xB005 0 none (bench failedSeb corrupted 0 none)).nextIsNot .drst ∧
    (presented 0xB005 0 none (bench failedSeb corrupted 0 none)).nextIsNot .erst :=
  ⟨⟨_, rfl⟩, rfl, rfl, by intro u h; cases h; decide, by intro u h; cases h; decide⟩

theorem witness_EveryStepKeepsInvariant :
    (presented 0x5061 0 none (bench foobPending fullQueue 0 none)).Inv ∧
    (∃ t, step (presented 0x5061 0 none (bench foobPending fullQueue 0 none)) = .next t ∧ t.waiting.isSome = true) ∧
    (waitingEwrite [{ PortInput.idle with ans := some .accept }]).Inv ∧
    ∃ t, step (waitingEwrite [{ PortInput.idle with ans := some .accept }]) = .next t :=
  ⟨by decide, ⟨_, rfl, rfl⟩, by decide, _, rfl⟩

/-- One pending byte, with another value left in an entry past it. -/
def dirtyAcc : Seb := { Seb.reset with acc := #v[0x66, 0xEE, 0, 0], vcnt := 1 }

/-- The same pending byte, that entry clear. -/
def cleanAcc : Seb := { Seb.reset with acc := #v[0x66, 0, 0, 0], vcnt := 1 }

/-- An empty queue with a delivered byte left in it and POFF left over. -/
def dirtyQueue : Sdb := { Sdb.reset with qbuf := #v[0x66, 0, 0, 0, 0], poff := 9 }

theorem witness_UnreadEntriesAreUnobservable :
    (bench dirtyAcc dirtyQueue 0 (some .accept)).Inv ∧ (bench cleanAcc .reset 0 (some .accept)).Inv ∧
    dirtyAcc ≠ cleanAcc ∧ dirtyQueue ≠ Sdb.reset ∧
    (bench dirtyAcc dirtyQueue 0 (some .accept)).Alike (bench cleanAcc .reset 0 (some .accept)) ∧
    (∃ t, exec .eclose (bench dirtyAcc dirtyQueue 0 (some .accept)) = .next t) ∧
    ∃ t', exec .eclose (bench cleanAcc .reset 0 (some .accept)) = .next t' :=
  ⟨by decide, by decide, by decide, by decide,
    ⟨⟨rfl, rfl, rfl, rfl, by decide⟩,
     ⟨rfl, rfl, rfl, rfl, by decide, rfl, rfl, by decide, rfl, rfl⟩, rfl, rfl⟩, ⟨_, rfl⟩, _, rfl⟩

theorem witness_EncodeIsEncqByQuanta :
    ([0x66, 0x6F, 0x6F, 0x62, 0x61] : List Byte).length = 5 ∧
    ∀ i < 5, (bench .reset .reset 0x000000666F6F6261 none).now.opnd.toNat / 2 ^ (32 - 8 * i) % 256 =
      entryNat ([0x66, 0x6F, 0x6F, 0x62, 0x61] : List Byte) i := by decide

/-- W9: `csqpyrkie8` is `Encode("foobar")` with its letters in lower case and an alias. -/
theorem witness_ReencodingCanonicalizes :
    ([0x63, 0x73, 0x71, 0x70, 0x79, 0x72, 0x6B, 0x69, 0x65, 0x38] : List Byte).map canonicalize =
      encodeSeq [0x66, 0x6F, 0x6F, 0x62, 0x61, 0x72] := by decide

/-- `LoX*` against `1o` followed by the same: one alias replaced, one left, a symbol and an invalid byte kept. -/
theorem witness_CaseAndAliasesFold :
    List.Forall₂ (fun x y => y = x ∨ y = foldAlias x) ([0x4C, 0x6F, 0x58, 0x2A] : List Byte) [0x31, 0x6F, 0x58, 0x2A] :=
  .cons (.inr (by decide)) (.cons (.inl rfl) (.cons (.inl rfl) (.cons (.inl rfl) .nil)))

theorem witness_ExtraSymbolIsIgnored :
    ([0x66] : List Byte).length % 5 = 1 ∧ ([0x66, 0x6F, 0x6F, 0x62, 0x61, 0x72, 0x66, 0x6F] : List Byte).length % 5 = 3 := by
  decide

/-- W7: `CSQG*`; two padding bytes after nothing and then a symbol; W13: `CSQPYRK1E==`. -/
theorem witness_FirstInvalidByteIsReported :
    ((∀ x ∈ ([0x43, 0x53, 0x51, 0x47] : List Byte), dt x ≠ none) ∧ dt 0x2A = none ∧ (0x2A#8 : Byte) ≠ 0x3D#8) ∧
    ((∀ x ∈ ([] : List Byte), dt x ≠ none) ∧ ([] : List Byte).length % 8 ≠ 1 ∧ 1 ≤ 2 ∧ (0x43#8 : Byte) ≠ 0x3D#8) ∧
    ((∀ x ∈ ([0x43, 0x53, 0x51, 0x50, 0x59, 0x52, 0x4B, 0x31, 0x45] : List Byte), dt x ≠ none) ∧
      ([0x43, 0x53, 0x51, 0x50, 0x59, 0x52, 0x4B, 0x31, 0x45] : List Byte).length % 8 = 1) := by decide

/-- No symbol, eight and nine symbols. -/
theorem witness_ValidSymbolsDecode :
    (∀ x ∈ ([] : List Byte), dt x ≠ none) ∧ ([] : List Byte).length % 8 ≠ 1 ∧
    (∀ x ∈ List.replicate 8 (0x6F : Byte), dt x ≠ none) ∧ (List.replicate 8 (0x6F : Byte)).length % 8 ≠ 1 ∧
    (∀ x ∈ List.replicate 9 (0x7A : Byte), dt x ≠ none) ∧ (List.replicate 9 (0x7A : Byte)).length % 8 = 1 := by decide

/-- `foobar`: the quantum is answered ACCEPT after two more steps. -/
def foobarWrites : List (Byte × SinkDelay) :=
  [0x66, 0x6F, 0x6F, 0x62].map (fun b => (b, ⟨0, .accept⟩)) ++ [(0x61, ⟨2, .accept⟩), (0x72, ⟨0, .fail 1⟩)]

theorem witness_EncodeBufferStreamsEncode :
    ∃ t, runSteps (encodeScript foobarWrites ⟨1, .accept⟩).length
        { State.reset with script := encodeScript foobarWrites ⟨1, .accept⟩ } = .next t ∧
      foobarWrites.length = 6 ∧ t.responses = List.replicate 7 okResponse ∧
      t.transfers.map (fun r => r.offer.len.toNat) = [8, 2] := ⟨_, rfl, rfl, by decide, by decide⟩

/-- Reset meets the premises of ChunkingDoesNotMatter and ReadsDeliverDecode, for one later call and for two. -/
theorem witness_Chunking_and_Reads :
    State.reset.seb = Seb.reset ∧ State.reset.sdb = Sdb.reset ∧ State.reset.waiting = none ∧ 1 ≤ 1 ∧
    (∀ later ∈ [1], 1 ≤ later) ∧ (∀ later ∈ [1, 24], 1 ≤ later) := by decide

/-- A response to a command, one to an illegal word. -/
theorem witness_ExchangesAreTheResponses :
    (presented 0xC000 0 none .reset).Inv ∧
    (∃ t, step (presented 0xC000 0 none .reset) = .next t ∧
      exchangeOf (presented 0xC000 0 none .reset) t = [⟨some .dread, ⟨.again, 0, 0⟩⟩]) ∧
    (∃ t, step (presented 0xF000 0 none .reset) = .next t ∧
      exchangeOf (presented 0xF000 0 none .reset) t = [⟨none, ⟨.illegal, 0, 0⟩⟩]) ∧
    ∃ t, runSteps 1 (presented 0xC000 0 none .reset) = .next t :=
  ⟨by decide, ⟨_, rfl, by decide⟩, ⟨_, rfl, by decide⟩, _, rfl⟩

/-- One byte, and a close answered one step later. -/
def shortEncode : State := { State.reset with script := encodeScript [(0x66, ⟨0, .accept⟩)] ⟨1, .accept⟩ }

theorem witness_EncodeRunEndsWell :
    shortEncode.seb = Seb.reset ∧ shortEncode.waiting = none ∧
    (∀ w ∈ [((0x66 : Byte), (⟨0, .accept⟩ : SinkDelay))], w.2.answer = .accept) ∧ SinkDelay.answer ⟨1, .accept⟩ = .accept := by
  decide

theorem witness_DecodeRunEndsWell :
    ({ State.reset with script := decodeScript [0x43] } : State).sdb = Sdb.reset ∧
    ({ State.reset with script := decodeScript [0x43] } : State).waiting = none := by decide

/-- W5: `f` encoded and closed ends well, with `CR` accepted; the same close failed by the sink does not. -/
theorem test_encode_ended_well :
    EncodeEndedWell 3 shortEncode ∧
    lastAnswer .eclose (exchanges 2 { State.reset with script := encodeScript [(0x66, ⟨0, .accept⟩)] ⟨0, .fail 3⟩ }) =
      some ⟨.ioerr, 3, 0⟩ := ⟨⟨_, _, rfl, rfl, rfl, rfl⟩, by decide⟩

/-- W2: `CR`, the end, a byte and EOF end well; stopped before the last DREAD, the last answer is no terminal status. -/
theorem test_decode_ended_well :
    DecodeEndedWell 5 { State.reset with
      script := [.dpush 0x43, .dpush 0x52, .dend, .dread, .dread].map plainInput } ∧
    (lastAnswer .dread (exchanges 4 { State.reset with
      script := [.dpush 0x43, .dpush 0x52, .dend, .dread].map plainInput })).map Response.isTerminal = some false :=
  ⟨⟨_, _, rfl, rfl, rfl, rfl, rfl⟩, by decide⟩

end Sys2Proof.Tests
end

namespace Sys2Proof.Machine

/-! ## The decode buffer: an equation per branch of each update (42_stream_decoder.md R177 to R183) -/

section DecodeBufferEquations
variable {d : Sdb} {b : Byte} {v : Val5} {off : Offset}

theorem Sdb.queueFinal_of_two (h : 2#3 ≤ d.scnt) : d.queueFinal = d.queueGroup d.group := if_pos h

theorem Sdb.queueFinal_of_lt_two (h : ¬ 2#3 ≤ d.scnt) : d.queueFinal = d := if_neg h

@[simp] theorem Sdb.queueFinal_pst : d.queueFinal.pst = d.pst := by
  by_cases h : 2#3 ≤ d.scnt
  · rw [Sdb.queueFinal_of_two h, Sdb.queueGroup_pst]
  · rw [Sdb.queueFinal_of_lt_two h]

theorem Sdb.startPadding_of_lone (h : d.scnt = 1#3) :
    d.startPadding off = { d.corruptAt (off - 1) with scnt := 0 } := if_pos h

theorem Sdb.startPadding_of_not_lone (h : d.scnt ≠ 1#3) :
    d.startPadding off = { d.queueFinal with scnt := 0, dst := .pad } := if_neg h

theorem Sdb.takeValue_of_room (h : d.scnt < 7#3) :
    d.takeValue v = { d with sacc := d.sacc.setIfInBounds d.scnt.toNat v, scnt := d.scnt + 1 } := if_pos h

/-- The eighth value completes its group: SACC holds exactly the seven values before it (R179). -/
theorem Sdb.takeValue_of_full (h : ¬ d.scnt < 7#3) :
    d.takeValue v = { d.queueGroup (d.group ++ [v]) with scnt := 0 } := by
  have hseven : d.scnt.toNat = 7 := by bv_omega
  have hgroup : d.group = d.sacc.toList := List.take_of_length_le (by simp [hseven])
  rw [hgroup]
  exact if_neg h

theorem Sdb.pushRun_of_padding (h : b = Config.padChar) : d.pushRun b off = d.startPadding off := if_pos h

theorem Sdb.pushRun_of_invalid (h : b ≠ Config.padChar) (hv : dt b = none) :
    d.pushRun b off = { d.corruptAt off with scnt := 0 } := by simp only [Sdb.pushRun, if_neg h, hv]

theorem Sdb.pushRun_of_valid (h : b ≠ Config.padChar) (hv : dt b = some v) :
    d.pushRun b off = d.takeValue v := by simp only [Sdb.pushRun, if_neg h, hv]

theorem Sdb.pushPad_of_padding (h : b = Config.padChar) : d.pushPad b off = d := if_pos h

theorem Sdb.pushPad_of_other (h : b ≠ Config.padChar) : d.pushPad b off = d.corruptAt off := if_neg h

theorem Sdb.push_of_run (h : d.dst = .run) :
    d.push b = ({ d with soff := d.soff + 1 } : Sdb).pushRun b d.soff := by simp only [Sdb.push, h]

theorem Sdb.push_of_not_run (h : d.dst ≠ .run) :
    d.push b = ({ d with soff := d.soff + 1 } : Sdb).pushPad b d.soff := by
  cases hd : d.dst with
  | run => exact absurd hd h
  | pad => simp only [Sdb.push, hd]
  | term => simp only [Sdb.push, hd]

theorem Sdb.endInput_of_lone (h : d.dst = .run ∧ d.scnt = 1#3) :
    d.endInput = { d.corruptAt (d.soff - 1) with scnt := 0 } := if_pos h

theorem Sdb.endInput_of_run (h : d.dst = .run) (h1 : d.scnt ≠ 1#3) :
    d.endInput = { d.queueFinal with scnt := 0, dst := .term, pst := .eof } := by
  simp only [Sdb.endInput, h, h1, and_false, if_false, if_true]

theorem Sdb.endInput_of_not_run (h : d.dst ≠ .run) :
    d.endInput = { d with scnt := 0, dst := .term, pst := .eof } := by
  simp only [Sdb.endInput, h, false_and, if_false]

end DecodeBufferEquations

/-! ## The lists the counts select: the pending bytes, the current group, the queue -/

/-- Writing entry `k` of a vector makes its first `k + 1` entries the first `k` and the written one. -/
theorem take_succ_setIfInBounds {α : Type} {n k : Nat} (a : Vector α n) (x : α) (h : k < n) :
    (a.setIfInBounds k x).toList.take (k + 1) = a.toList.take k ++ [x] := by
  rw [List.take_add_one, Vector.toList_setIfInBounds]
  simp [h, List.take_set_of_le]

/-- EWRITE with room appends its byte to the pending ones (41_stream_encoder.md R143). -/
theorem Seb.absorb_pending {e : Seb} (b : Byte) (h : e.vcnt < 4#3) : (e.absorb b).pending = e.pending ++ [b] := by
  have hcount : (e.vcnt + 1).toNat = e.vcnt.toNat + 1 := by bv_omega
  simp only [Seb.pending, Seb.absorb, hcount]
  exact take_succ_setIfInBounds _ _ h

/-- A valid symbol with room in SACC is appended to the current group (42_stream_decoder.md R177). -/
theorem Sdb.takeValue_group {d : Sdb} (v : Val5) (h : d.scnt < 7#3) : (d.takeValue v).group = d.group ++ [v] := by
  have hcount : (d.scnt + 1).toNat = d.scnt.toNat + 1 := by bv_omega
  simp only [Sdb.takeValue_of_room h, Sdb.group, hcount]
  exact take_succ_setIfInBounds _ _ h

/-- The registers after DREAD has delivered a byte (42_stream_decoder.md R186). -/
def Sdb.dequeue (d : Sdb) : Sdb := { d with qidx := d.qidx + 1, qcnt := d.qcnt - 1 }

/-- A queue that is not empty is the byte DREAD delivers and then the queue it leaves (R186; QIDX + QCNT is at most 5,
10_state.md R31). -/
theorem Sdb.queued_eq_head_cons {d : Sdb} (h : d.Inv) (hq : d.qcnt ≠ 0) : d.queued = d.head :: d.dequeue.queued := by
  obtain ⟨-, -, hbound⟩ := h
  have hpos : d.qcnt.toNat ≠ 0 := fun h0 => hq (BitVec.eq_of_toNat_eq h0)
  have hidx : (d.qidx + 1).toNat = d.qidx.toNat + 1 := by bv_omega
  have hcnt : d.qcnt.toNat = (d.qcnt - 1).toNat + 1 := by bv_omega
  have hlt : d.qidx.toNat < d.qbuf.toList.length := by rw [Vector.length_toList]; omega
  simp only [Sdb.queued, Sdb.dequeue, Sdb.head, hidx]
  rw [hcnt, List.drop_eq_getElem_cons hlt, List.take_succ_cons, List.getD_eq_getElem _ _ hlt]

/-! ## The commands: an equation per case -/

section CommandEquations
variable {s : State} {b : Byte}

theorem execEwrite_of_failed (h : s.seb.errv = true) :
    execEwrite b s = respond .ioerr (zextByte s.seb.errc) 0 s := if_pos h

theorem execEwrite_of_closed (he : s.seb.errv = false) (hc : s.seb.closed = true) :
    execEwrite b s = respond .closed 0 0 s := by simp [execEwrite, he, hc, raise]

theorem execEwrite_of_room (he : s.seb.errv = false) (hc : s.seb.closed = false) (hv : s.seb.vcnt < 4#3) :
    execEwrite b s = respond .ok 0 0 (s.withSeb (s.seb.absorb b)) := by simp [execEwrite, he, hc, hv]

theorem execEwrite_of_full (he : s.seb.errv = false) (hc : s.seb.closed = false) (hv : ¬ s.seb.vcnt < 4#3) :
    execEwrite b s =
      sinkTransfer (.ewrite b) (encodeQuantum (s.seb.pending ++ [b]))
        (fun t => respond .ok 0 0 (t.withSeb { t.seb with vcnt := 0 })) sinkFailed s := by
  simp only [execEwrite, he, hc, if_neg hv, Bool.false_eq_true, if_false]

theorem execEclose_of_failed (h : s.seb.errv = true) :
    execEclose s = respond .ioerr (zextByte s.seb.errc) 0 s := if_pos h

theorem execEclose_of_closed (he : s.seb.errv = false) (hc : s.seb.closed = true) :
    execEclose s = respond .ok 0 0 s := by simp [execEclose, he, hc]

theorem execEclose_of_empty (he : s.seb.errv = false) (hc : s.seb.closed = false) (hv : s.seb.vcnt = 0) :
    execEclose s = respond .ok 0 0 (s.withSeb { s.seb with closed := true }) := by simp [execEclose, he, hc, hv]

theorem execEclose_of_pending (he : s.seb.errv = false) (hc : s.seb.closed = false) (hv : s.seb.vcnt ≠ 0) :
    execEclose s =
      sinkTransfer .eclose (encodeQuantum s.seb.pending)
        (fun t => respond .ok 0 0 (t.withSeb { t.seb with vcnt := 0, closed := true })) sinkFailed s := by
  simp only [execEclose, he, hc, if_neg hv, Bool.false_eq_true, if_false]

theorem execDread_of_queued (h : s.sdb.qcnt ≠ 0) :
    execDread s = respond .ok (zextByte s.sdb.head) 1 (s.withSdb s.sdb.dequeue) := if_pos h

/-- What DREAD answers when no byte is queued: AGAIN, or the recorded terminal status (42_stream_decoder.md R186). -/
def Sdb.emptyAnswer (d : Sdb) : Status × Bus :=
  if d.dst ≠ .term then (.again, 0)
  else
    match d.pst with
    | .eof => (.eof, 0)
    | .corrupt => (.corrupt, d.poff)
    | .ioerr => (.ioerr, zextByte d.perr)
    | .none => (.ioerr, zextByte d.perr)

theorem execDread_of_empty (h : s.sdb.qcnt = 0) :
    execDread s = respond s.sdb.emptyAnswer.1 s.sdb.emptyAnswer.2 0 s := by
  by_cases ht : s.sdb.dst = .term
  · cases hp : s.sdb.pst <;> simp [execDread, Sdb.emptyAnswer, h, ht, hp]
  · simp [execDread, Sdb.emptyAnswer, h, ht]

end CommandEquations

/-- A meaning that reads nothing but OPND and does nothing but answer (10_state.md R25). -/
def AnswersOpnd (f : State → Result) : Prop :=
  ∀ w : Bus, ∃ st res rlen, ∀ s : State, s.now.opnd = w → f s = respond st res rlen s

theorem execEncq_answersOpnd (k : BitVec 4) : AnswersOpnd (execEncq k) := by
  intro w
  by_cases hk : k ≤ 5#4
  · exact ⟨_, _, _, fun s hs => by rw [execEncq, if_pos hk, hs]⟩
  · exact ⟨_, _, _, fun s _ => if_neg hk⟩

theorem execDecq_answersOpnd (j : BitVec 4) : AnswersOpnd (execDecq j) := by
  intro w
  by_cases hj : j ≤ 8#4
  · cases hlane : firstInvalid (operandSymbols w j.toNat) with
    | some lane => exact ⟨.corrupt, _, 0, fun s hs => by simp only [execDecq, if_pos hj, hs, hlane]; rfl⟩
    | none =>
      by_cases hlone : j = 1#4
      · exact ⟨.corrupt, 0, 0, fun s hs => by simp only [execDecq, if_pos hj, hs, hlane, if_pos hlone]; rfl⟩
      · exact ⟨.ok, _, _, fun s hs => by simp only [execDecq, if_pos hj, hs, hlane, if_neg hlone]; rfl⟩
  · exact ⟨_, _, _, fun s _ => if_neg hj⟩

theorem execElen_answersOpnd : AnswersOpnd execElen :=
  fun _ => ⟨_, _, _, fun s hs => by rw [execElen, hs]⟩

theorem execDlen_answersOpnd : AnswersOpnd execDlen :=
  fun _ => ⟨_, _, _, fun s hs => by rw [execDlen, hs]⟩

/-! ## The invariant of the two units (10_state.md R27, R31) -/

theorem Seb.reset_inv : Seb.reset.Inv := by decide

theorem Sdb.reset_inv : Sdb.reset.Inv := by decide

section EncodeBufferInvariant
variable {e : Seb}

theorem Seb.absorb_inv (b : Byte) (h : e.Inv) (hc : e.closed = false) (hv : e.vcnt < 4#3) : (e.absorb b).Inv := by
  obtain ⟨-, -, herr⟩ := h
  have hle : e.vcnt + 1 ≤ 4#3 := by bv_omega
  exact ⟨hle, fun hcl => absurd (hc.symm.trans hcl) Bool.false_ne_true, herr⟩

/-- With nothing pending the buffer may be closed or not. -/
theorem Seb.emptied_inv (h : e.Inv) (c : Bool) : ({ e with vcnt := 0, closed := c } : Seb).Inv := by
  obtain ⟨-, -, herr⟩ := h
  exact ⟨(by decide : 0#3 ≤ 4#3), fun _ => rfl, herr⟩

theorem Seb.failed_inv (h : e.Inv) (c : Byte) : ({ e with errv := true, errc := c } : Seb).Inv := by
  obtain ⟨hle, hclosed, -⟩ := h
  exact ⟨hle, hclosed, nofun⟩

end EncodeBufferInvariant

section DecodeBufferInvariant
variable {d : Sdb}

theorem Sdb.clearGroup_inv (h : d.Inv) : ({ d with scnt := 0 } : Sdb).Inv := by
  obtain ⟨hpst, -, hqueue⟩ := h
  exact ⟨hpst, fun _ => rfl, hqueue⟩

/-- The group is given up and the state machine moves: padding, or a terminal condition. -/
theorem Sdb.endGroup_inv (h : d.Inv) {x : Dst} {p : Pst} (c : Byte) (hp : p = .none ↔ x ≠ .term) :
    ({ d with scnt := 0, dst := x, pst := p, perr := c } : Sdb).Inv := by
  obtain ⟨-, -, hqueue⟩ := h
  exact ⟨hp, fun _ => rfl, hqueue⟩

theorem Sdb.corruptAt_inv (h : d.Inv) (hs : d.scnt = 0) (off : Offset) : (d.corruptAt off).Inv := by
  obtain ⟨-, -, hqueue⟩ := h
  exact ⟨by simp, fun _ => hs, hqueue⟩

/-- A group of at most eight values yields at most five bytes (40_codec_core.md R111). -/
theorem Sdb.queueGroup_inv (h : d.Inv) {vs : List Val5} (hlen : vs.length ≤ 8) : (d.queueGroup vs).Inv := by
  obtain ⟨hpst, hscnt, -⟩ := h
  have hbytes : groupBytes vs.length ≤ 5 := by unfold groupBytes; omega
  exact ⟨hpst, hscnt, by simp; omega⟩

theorem Sdb.queueFinal_inv (h : d.Inv) : d.queueFinal.Inv := by
  by_cases h2 : 2#3 ≤ d.scnt
  · rw [Sdb.queueFinal_of_two h2]
    exact Sdb.queueGroup_inv h (by rw [Sdb.group_length]; omega)
  · rwa [Sdb.queueFinal_of_lt_two h2]

theorem Sdb.startPadding_inv (h : d.Inv) (hnone : d.pst = .none) (off : Offset) : (d.startPadding off).Inv := by
  by_cases h1 : d.scnt = 1#3
  · rw [Sdb.startPadding_of_lone h1]
    exact Sdb.corruptAt_inv (Sdb.clearGroup_inv h) rfl _
  · rw [Sdb.startPadding_of_not_lone h1]
    exact Sdb.endGroup_inv (Sdb.queueFinal_inv h) _ (by simp [hnone])

theorem Sdb.takeValue_inv (h : d.Inv) (hr : d.dst = .run) (v : Val5) : (d.takeValue v).Inv := by
  by_cases h7 : d.scnt < 7#3
  · rw [Sdb.takeValue_of_room h7]
    obtain ⟨hpst, -, hqueue⟩ := h
    exact ⟨hpst, fun hn => absurd hr hn, hqueue⟩
  · rw [Sdb.takeValue_of_full h7]
    exact Sdb.clearGroup_inv (Sdb.queueGroup_inv h (by simp [Sdb.group_length]; omega))

theorem Sdb.pushRun_inv (h : d.Inv) (hr : d.dst = .run) (b : Byte) (off : Offset) : (d.pushRun b off).Inv := by
  by_cases hb : b = Config.padChar
  · rw [Sdb.pushRun_of_padding hb]
    exact Sdb.startPadding_inv h (h.1.mpr (by simp [hr])) off
  · cases hv : dt b with
    | none =>
      rw [Sdb.pushRun_of_invalid hb hv]
      exact Sdb.corruptAt_inv (Sdb.clearGroup_inv h) rfl off
    | some v =>
      rw [Sdb.pushRun_of_valid hb hv]
      exact Sdb.takeValue_inv h hr v

theorem Sdb.pushPad_inv (h : d.Inv) (hr : d.dst ≠ .run) (b : Byte) (off : Offset) : (d.pushPad b off).Inv := by
  by_cases hb : b = Config.padChar
  · rwa [Sdb.pushPad_of_padding hb]
  · rw [Sdb.pushPad_of_other hb]
    exact Sdb.corruptAt_inv h (h.2.1 hr) off

theorem Sdb.push_inv (h : d.Inv) (b : Byte) : (d.push b).Inv := by
  by_cases hr : d.dst = .run
  · rw [Sdb.push_of_run hr]
    exact Sdb.pushRun_inv (d := { d with soff := d.soff + 1 }) h hr b _
  · rw [Sdb.push_of_not_run hr]
    exact Sdb.pushPad_inv (d := { d with soff := d.soff + 1 }) h hr b _

theorem Sdb.endInput_inv (h : d.Inv) : d.endInput.Inv := by
  by_cases hr : d.dst = .run
  · by_cases h1 : d.scnt = 1#3
    · rw [Sdb.endInput_of_lone ⟨hr, h1⟩]
      exact Sdb.corruptAt_inv (Sdb.clearGroup_inv h) rfl _
    · rw [Sdb.endInput_of_run hr h1]
      exact Sdb.endGroup_inv (Sdb.queueFinal_inv h) _ (by simp)
  · rw [Sdb.endInput_of_not_run hr]
    exact Sdb.endGroup_inv h _ (by simp)

theorem Sdb.dequeue_inv (h : d.Inv) (hq : d.qcnt ≠ 0) : d.dequeue.Inv := by
  obtain ⟨hpst, hscnt, hqueue⟩ := h
  have hbound : (d.qidx + 1).toNat + (d.qcnt - 1).toNat ≤ 5 := by bv_omega
  exact ⟨hpst, hscnt, hbound⟩

end DecodeBufferInvariant

/-! ## Every command and every step keeps the invariant -/

/-- A meaning that, from units within their invariants, answers only states of the whole invariant. Which command waits
before it does not matter: a command ends the wait or starts one of its own. -/
def KeepsInv (f : State → Result) : Prop :=
  ∀ ⦃s t : State⦄, f s = .next t → s.seb.Inv → s.sdb.Inv → t.Inv

theorem respond_keepsInv (st : Status) (res : Bus) (rlen : BitVec 4) : KeepsInv (respond st res rlen) := by
  intro s t h he hd
  rw [respond_next.mp h]
  exact ⟨he, hd, nofun⟩

theorem AnswersOpnd.keepsInv {f : State → Result} (hf : AnswersOpnd f) : KeepsInv f := by
  intro s t h he hd
  obtain ⟨st, res, rlen, heq⟩ := hf s.now.opnd
  exact respond_keepsInv st res rlen ((heq s rfl).symm.trans h) he hd

theorem sinkFailed_keepsInv (c : Byte) : KeepsInv (sinkFailed c) :=
  fun _ _ h he hd => respond_keepsInv _ _ _ h (Seb.failed_inv he c) hd

/-- A transfer keeps the invariant when its command is the one that makes it, so that it may wait for it. -/
theorem sinkTransfer_inv {i : Instr} {syms : List Byte} {onAccept : State → Result} {onFail : Byte → State → Result}
    {s t : State} (h : sinkTransfer i syms onAccept onFail s = .next t) (he : s.seb.Inv) (hd : s.sdb.Inv)
    (hmakes : transferOf i s.seb = some (offerOf syms)) (hAccept : KeepsInv onAccept)
    (hFail : ∀ c, KeepsInv (onFail c)) : t.Inv := by
  obtain ⟨-, heq⟩ | ⟨-, heq⟩ | ⟨c, -, heq⟩ := sinkTransfer_cases i syms onAccept onFail s
  · cases heq.symm.trans h
    refine ⟨he, hd, fun w hw => ?_⟩
    cases hw
    exact hmakes
  · exact hAccept (heq.symm.trans h) he hd
  · exact hFail c (heq.symm.trans h) he hd

theorem transferOf_ewrite {e : Seb} {b : Byte} (he : e.errv = false) (hc : e.closed = false) (hv : e.vcnt = 4#3) :
    transferOf (.ewrite b) e = some (offerOf (encodeQuantum (e.pending ++ [b]))) := by simp [transferOf, he, hc, hv]

theorem transferOf_eclose {e : Seb} (he : e.errv = false) (hc : e.closed = false) (hv : e.vcnt ≠ 0) :
    transferOf .eclose e = some (offerOf (encodeQuantum e.pending)) := by
  simp only [transferOf, he, hc, if_neg hv, Bool.or_self, Bool.false_eq_true, if_false]

theorem execEwrite_keepsInv (b : Byte) : KeepsInv (execEwrite b) := by
  intro s t h he hd
  cases herr : s.seb.errv with
  | true => exact respond_keepsInv _ _ _ (execEwrite_of_failed herr ▸ h) he hd
  | false =>
    cases hcl : s.seb.closed with
    | true => exact respond_keepsInv _ _ _ (execEwrite_of_closed herr hcl ▸ h) he hd
    | false =>
      by_cases hroom : s.seb.vcnt < 4#3
      · rw [execEwrite_of_room herr hcl hroom] at h
        exact respond_keepsInv _ _ _ h (Seb.absorb_inv b he hcl hroom) hd
      · rw [execEwrite_of_full herr hcl hroom] at h
        have hfull : s.seb.vcnt = 4#3 := BitVec.le_antisymm he.1 (BitVec.not_lt.mp hroom)
        exact sinkTransfer_inv h he hd (transferOf_ewrite herr hcl hfull)
          (fun u _ hu he' hd' => respond_keepsInv _ _ _ hu (Seb.emptied_inv he' u.seb.closed) hd')
          sinkFailed_keepsInv

theorem execEclose_keepsInv : KeepsInv execEclose := by
  intro s t h he hd
  cases herr : s.seb.errv with
  | true => exact respond_keepsInv _ _ _ (execEclose_of_failed herr ▸ h) he hd
  | false =>
    cases hcl : s.seb.closed with
    | true => exact respond_keepsInv _ _ _ (execEclose_of_closed herr hcl ▸ h) he hd
    | false =>
      by_cases hempty : s.seb.vcnt = 0
      · rw [execEclose_of_empty herr hcl hempty] at h
        exact respond_keepsInv _ _ _ h ⟨he.1, fun _ => hempty, he.2.2⟩ hd
      · rw [execEclose_of_pending herr hcl hempty] at h
        exact sinkTransfer_inv h he hd (transferOf_eclose herr hcl hempty)
          (fun _ _ hu he' hd' => respond_keepsInv _ _ _ hu (Seb.emptied_inv he' true) hd')
          sinkFailed_keepsInv

theorem admitInput_keepsInv {consume : Sdb → Sdb} (hc : ∀ d : Sdb, d.Inv → (consume d).Inv) :
    KeepsInv (admitInput consume) := by
  intro s t h he hd
  obtain ⟨-, heq⟩ | ⟨-, -, heq⟩ | ⟨-, -, heq⟩ := admitInput_cases consume s
  · exact respond_keepsInv _ _ _ (heq.symm.trans h) he hd
  · exact respond_keepsInv _ _ _ (heq.symm.trans h) he hd
  · exact respond_keepsInv _ _ _ (heq.symm.trans h) he (hc _ hd)

theorem execDread_keepsInv : KeepsInv execDread := by
  intro s t h he hd
  by_cases hq : s.sdb.qcnt = 0
  · exact respond_keepsInv _ _ _ (execDread_of_empty hq ▸ h) he hd
  · exact respond_keepsInv _ _ _ ((execDread_of_queued hq).symm.trans h) he (Sdb.dequeue_inv hd hq)

theorem exec_keepsInv (i : Instr) : KeepsInv (exec i) := by
  cases i with
  | encq k => exact (execEncq_answersOpnd k).keepsInv
  | decq j => exact (execDecq_answersOpnd j).keepsInv
  | elen => exact execElen_answersOpnd.keepsInv
  | dlen => exact execDlen_answersOpnd.keepsInv
  | ewrite b => exact execEwrite_keepsInv b
  | eclose => exact execEclose_keepsInv
  | erst => exact fun _ _ h _ hd => respond_keepsInv _ _ _ h Seb.reset_inv hd
  | estat => exact fun _ _ h => respond_keepsInv _ _ _ h
  | dpush b => exact admitInput_keepsInv fun _ hd => Sdb.push_inv hd b
  | dend => exact admitInput_keepsInv fun _ hd => Sdb.endInput_inv hd
  | dfail c => exact admitInput_keepsInv fun _ hd => Sdb.endGroup_inv hd c (by simp)
  | dread => exact execDread_keepsInv
  | drst => exact fun _ _ h he _ => respond_keepsInv _ _ _ h he Sdb.reset_inv
  | dstat => exact fun _ _ h => respond_keepsInv _ _ _ h

theorem stepInput_inv {s t : State} (hs : s.Inv) (h : stepInput s = .next t) : t.Inv := by
  have ⟨he, hd, _⟩ := hs
  unfold stepInput at h
  cases hsel : s.select with
  | reset =>
    rw [hsel] at h
    cases h
    exact ⟨Seb.reset_inv, Sdb.reset_inv, nofun⟩
  | run i => rw [hsel] at h; exact exec_keepsInv i h he hd
  | illegal => rw [hsel] at h; exact respond_keepsInv _ _ _ h he hd
  | idle => rw [hsel] at h; cases h; exact hs

/-- Settles O36: both units' reset registers meet their invariants, and no command waits. -/
theorem resetMeetsInvariant : Obligations.ResetMeetsInvariant :=
  ⟨Seb.reset_inv, Sdb.reset_inv, nofun⟩

/-- Settles O37: taking the input record changes neither unit nor the wait, and whatever the pins then select keeps the
invariant. -/
theorem everyStepKeepsInvariant : Obligations.EveryStepKeepsInvariant := by
  intro s t hs h
  cases hscript : s.script with
  | nil =>
    cases (step_of_empty hscript).symm.trans h
    exact hs
  | cons p rest => exact stepInput_inv (s := { s with now := p, script := rest }) hs (step_of_input hscript ▸ h)

/-- Settles O6: the pins as taken select the decoded command. -/
theorem stepRunsDecodedCommand : Obligations.StepRunsDecodedCommand := by
  intro s p rest w i hscript hrst hwait hcmd hdec
  have hsel : State.select { s with now := p, script := rest } = .run i := by
    simp [State.select, selectWord, hrst, hwait, hcmd, hdec]
  rw [step_of_input hscript, stepInput, hsel]

end Sys2Proof.Machine

namespace Sys2Proof.Machine

/-! ## Units alike stay alike (10_state.md R27, R29, R31) -/

section EncodeBufferAlike
variable {e f : Seb}

theorem Seb.Alike.refl (e : Seb) : e.Alike e := ⟨rfl, rfl, rfl, rfl, rfl⟩

theorem Seb.Alike.closed_eq (h : e.Alike f) : e.closed = f.closed := h.2.1

theorem Seb.Alike.absorb (h : e.Alike f) (b : Byte) (hroom : e.vcnt < 4#3) : (e.absorb b).Alike (f.absorb b) := by
  obtain ⟨hvcnt, hclosed, herrv, herrc, hpending⟩ := h
  refine ⟨congrArg (· + 1) hvcnt, hclosed, herrv, herrc, ?_⟩
  rw [Seb.absorb_pending b hroom, Seb.absorb_pending b (hvcnt ▸ hroom), hpending]

/-- An emptied buffer has no pending byte, whatever ACC holds. -/
theorem Seb.Alike.emptied (h : e.Alike f) {c c' : Bool} (hc : c = c') :
    ({ e with vcnt := 0, closed := c } : Seb).Alike { f with vcnt := 0, closed := c' } := by
  obtain ⟨-, -, herrv, herrc, -⟩ := h
  exact ⟨rfl, hc, herrv, herrc, rfl⟩

theorem Seb.Alike.closed (h : e.Alike f) : ({ e with closed := true } : Seb).Alike { f with closed := true } := by
  obtain ⟨hvcnt, -, herrv, herrc, hpending⟩ := h
  exact ⟨hvcnt, rfl, herrv, herrc, hpending⟩

theorem Seb.Alike.failed (h : e.Alike f) (c : Byte) :
    ({ e with errv := true, errc := c } : Seb).Alike { f with errv := true, errc := c } := by
  obtain ⟨hvcnt, hclosed, -, -, hpending⟩ := h
  exact ⟨hvcnt, hclosed, rfl, rfl, hpending⟩

theorem Seb.Alike.esr_eq (h : e.Alike f) : e.esr = f.esr := by
  obtain ⟨hvcnt, hclosed, herrv, herrc, -⟩ := h
  simp only [Seb.esr, hvcnt, hclosed, herrv, herrc]

end EncodeBufferAlike

section DecodeBufferAlike
variable {d e : Sdb}

theorem Sdb.Alike.refl (d : Sdb) : d.Alike d := ⟨rfl, rfl, rfl, rfl, rfl, rfl, rfl, fun _ => rfl, rfl, rfl⟩

theorem Sdb.Alike.scnt_eq (h : d.Alike e) : d.scnt = e.scnt := h.1

theorem Sdb.Alike.group_eq (h : d.Alike e) : d.group = e.group := h.2.1

theorem Sdb.Alike.qcnt_eq (h : d.Alike e) : d.qcnt = e.qcnt := by
  obtain ⟨-, -, -, hqcnt, -⟩ := h
  exact hqcnt

theorem Sdb.Alike.queued_eq (h : d.Alike e) : d.queued = e.queued := by
  obtain ⟨-, -, -, -, hqueued, -⟩ := h
  exact hqueued

theorem Sdb.Alike.dst_eq (h : d.Alike e) : d.dst = e.dst := by
  obtain ⟨-, -, -, -, -, hdst, -⟩ := h
  exact hdst

theorem Sdb.Alike.pst_eq (h : d.Alike e) : d.pst = e.pst := by
  obtain ⟨-, -, -, -, -, -, hpst, -⟩ := h
  exact hpst

theorem Sdb.Alike.poff_eq (h : d.Alike e) : d.pst = .corrupt → d.poff = e.poff := by
  obtain ⟨-, -, -, -, -, -, -, hpoff, -⟩ := h
  exact hpoff

theorem Sdb.Alike.perr_eq (h : d.Alike e) : d.perr = e.perr := by
  obtain ⟨-, -, -, -, -, -, -, -, hperr, -⟩ := h
  exact hperr

theorem Sdb.Alike.soff_eq (h : d.Alike e) : d.soff = e.soff := by
  obtain ⟨-, -, -, -, -, -, -, -, -, hsoff⟩ := h
  exact hsoff

theorem Sdb.Alike.setSoff (h : d.Alike e) (off : Offset) :
    ({ d with soff := off } : Sdb).Alike { e with soff := off } := by
  obtain ⟨hscnt, hgroup, hqidx, hqcnt, hqueued, hdst, hpst, hpoff, hperr, -⟩ := h
  exact ⟨hscnt, hgroup, hqidx, hqcnt, hqueued, hdst, hpst, hpoff, hperr, rfl⟩

theorem Sdb.Alike.clearGroup (h : d.Alike e) : ({ d with scnt := 0 } : Sdb).Alike { e with scnt := 0 } := by
  obtain ⟨-, -, hqidx, hqcnt, hqueued, hdst, hpst, hpoff, hperr, hsoff⟩ := h
  exact ⟨rfl, rfl, hqidx, hqcnt, hqueued, hdst, hpst, hpoff, hperr, hsoff⟩

/-- The group is given up and the state machine moves; POFF has to agree only where Corrupt Input is recorded (R29). -/
theorem Sdb.Alike.endGroup (h : d.Alike e) (x : Dst) {p p' : Pst} {c c' : Byte} (hp : p = p')
    (hoff : p = .corrupt → d.poff = e.poff) (hc : c = c') :
    ({ d with scnt := 0, dst := x, pst := p, perr := c } : Sdb).Alike
      { e with scnt := 0, dst := x, pst := p', perr := c' } := by
  obtain ⟨-, -, hqidx, hqcnt, hqueued, -, -, -, -, hsoff⟩ := h
  exact ⟨rfl, rfl, hqidx, hqcnt, hqueued, rfl, hp, hoff, hc, hsoff⟩

theorem Sdb.Alike.corruptAt (h : d.Alike e) {off off' : Offset} (hoff : off = off') :
    (d.corruptAt off).Alike (e.corruptAt off') := by
  obtain ⟨hscnt, hgroup, hqidx, hqcnt, hqueued, -, -, -, hperr, hsoff⟩ := h
  exact ⟨hscnt, hgroup, hqidx, hqcnt, hqueued, rfl, rfl, fun _ => hoff, hperr, hsoff⟩

theorem Sdb.Alike.queueGroup (h : d.Alike e) (vs : List Val5) : (d.queueGroup vs).Alike (e.queueGroup vs) := by
  obtain ⟨hscnt, hgroup, -, -, -, hdst, hpst, hpoff, hperr, hsoff⟩ := h
  exact ⟨hscnt, hgroup, rfl, rfl, rfl, hdst, hpst, hpoff, hperr, hsoff⟩

theorem Sdb.Alike.queueFinal (h : d.Alike e) : d.queueFinal.Alike e.queueFinal := by
  by_cases h2 : 2#3 ≤ d.scnt
  · rw [Sdb.queueFinal_of_two h2, Sdb.queueFinal_of_two (h.scnt_eq ▸ h2), h.group_eq]
    exact h.queueGroup _
  · rwa [Sdb.queueFinal_of_lt_two h2, Sdb.queueFinal_of_lt_two (h.scnt_eq ▸ h2)]

theorem Sdb.Alike.startPadding (h : d.Alike e) (off : Offset) : (d.startPadding off).Alike (e.startPadding off) := by
  by_cases h1 : d.scnt = 1#3
  · rw [Sdb.startPadding_of_lone h1, Sdb.startPadding_of_lone (h.scnt_eq ▸ h1)]
    exact (h.corruptAt rfl).clearGroup
  · rw [Sdb.startPadding_of_not_lone h1, Sdb.startPadding_of_not_lone (h.scnt_eq ▸ h1)]
    exact h.queueFinal.endGroup .pad h.queueFinal.pst_eq h.queueFinal.poff_eq h.queueFinal.perr_eq

theorem Sdb.Alike.takeValue (h : d.Alike e) (v : Val5) : (d.takeValue v).Alike (e.takeValue v) := by
  by_cases h7 : d.scnt < 7#3
  · have h7' : e.scnt < 7#3 := h.scnt_eq ▸ h7
    have hgroup : (d.takeValue v).group = (e.takeValue v).group := by
      rw [Sdb.takeValue_group v h7, Sdb.takeValue_group v h7', h.group_eq]
    rw [Sdb.takeValue_of_room h7, Sdb.takeValue_of_room h7'] at hgroup ⊢
    obtain ⟨hscnt, -, hqidx, hqcnt, hqueued, hdst, hpst, hpoff, hperr, hsoff⟩ := h
    exact ⟨congrArg (· + 1) hscnt, hgroup, hqidx, hqcnt, hqueued, hdst, hpst, hpoff, hperr, hsoff⟩
  · rw [Sdb.takeValue_of_full h7, Sdb.takeValue_of_full (h.scnt_eq ▸ h7), h.group_eq]
    exact (h.queueGroup _).clearGroup

theorem Sdb.Alike.pushRun (h : d.Alike e) (b : Byte) (off : Offset) : (d.pushRun b off).Alike (e.pushRun b off) := by
  by_cases hb : b = Config.padChar
  · rw [Sdb.pushRun_of_padding hb, Sdb.pushRun_of_padding hb]
    exact h.startPadding off
  · cases hv : dt b with
    | none =>
      rw [Sdb.pushRun_of_invalid hb hv, Sdb.pushRun_of_invalid hb hv]
      exact (h.corruptAt rfl).clearGroup
    | some v =>
      rw [Sdb.pushRun_of_valid hb hv, Sdb.pushRun_of_valid hb hv]
      exact h.takeValue v

theorem Sdb.Alike.pushPad (h : d.Alike e) (b : Byte) (off : Offset) : (d.pushPad b off).Alike (e.pushPad b off) := by
  by_cases hb : b = Config.padChar
  · rwa [Sdb.pushPad_of_padding hb, Sdb.pushPad_of_padding hb]
  · rw [Sdb.pushPad_of_other hb, Sdb.pushPad_of_other hb]
    exact h.corruptAt rfl

theorem Sdb.Alike.push (h : d.Alike e) (b : Byte) : (d.push b).Alike (e.push b) := by
  by_cases hr : d.dst = .run
  · rw [Sdb.push_of_run hr, Sdb.push_of_run (h.dst_eq ▸ hr), ← h.soff_eq]
    exact (h.setSoff _).pushRun b _
  · rw [Sdb.push_of_not_run hr, Sdb.push_of_not_run (h.dst_eq ▸ hr), ← h.soff_eq]
    exact (h.setSoff _).pushPad b _

theorem Sdb.Alike.endInput (h : d.Alike e) : d.endInput.Alike e.endInput := by
  by_cases hr : d.dst = .run
  · by_cases h1 : d.scnt = 1#3
    · rw [Sdb.endInput_of_lone ⟨hr, h1⟩, Sdb.endInput_of_lone ⟨h.dst_eq ▸ hr, h.scnt_eq ▸ h1⟩]
      exact (h.corruptAt (congrArg (· - 1) h.soff_eq)).clearGroup
    · rw [Sdb.endInput_of_run hr h1, Sdb.endInput_of_run (h.dst_eq ▸ hr) (h.scnt_eq ▸ h1)]
      exact h.queueFinal.endGroup .term rfl (by simp) h.queueFinal.perr_eq
  · rw [Sdb.endInput_of_not_run hr, Sdb.endInput_of_not_run (h.dst_eq ▸ hr)]
    exact h.endGroup .term rfl (by simp) h.perr_eq

/-- Queues alike deliver the same byte and leave queues alike. -/
theorem Sdb.Alike.head_eq_and_dequeue (h : d.Alike e) (hd : d.Inv) (he : e.Inv) (hq : d.qcnt ≠ 0) :
    d.head = e.head ∧ d.dequeue.Alike e.dequeue := by
  have hcons : d.head :: d.dequeue.queued = e.head :: e.dequeue.queued := by
    rw [← Sdb.queued_eq_head_cons hd hq, ← Sdb.queued_eq_head_cons he (h.qcnt_eq ▸ hq)]
    exact h.queued_eq
  obtain ⟨hhead, hrest⟩ := List.cons.inj hcons
  obtain ⟨hscnt, hgroup, hqidx, hqcnt, -, hdst, hpst, hpoff, hperr, hsoff⟩ := h
  exact ⟨hhead, hscnt, hgroup, congrArg (· + 1) hqidx, congrArg (· - 1) hqcnt, hrest, hdst, hpst, hpoff, hperr, hsoff⟩

/-- POFF is answered only where Corrupt Input is recorded. -/
theorem Sdb.Alike.emptyAnswer_eq (h : d.Alike e) : d.emptyAnswer = e.emptyAnswer := by
  obtain ⟨-, -, -, -, -, hdst, hpst, hpoff, hperr, -⟩ := h
  cases hp : d.pst with
  | none => simp only [Sdb.emptyAnswer, ← hdst, ← hpst, hp, hperr]
  | eof => simp only [Sdb.emptyAnswer, ← hdst, ← hpst, hp]
  | corrupt => simp only [Sdb.emptyAnswer, ← hdst, ← hpst, hp, hpoff hp]
  | ioerr => simp only [Sdb.emptyAnswer, ← hdst, ← hpst, hp, hperr]

theorem Sdb.Alike.dsr_eq (h : d.Alike e) : d.dsr = e.dsr := by
  obtain ⟨hscnt, -, -, hqcnt, -, hdst, hpst, -, hperr, -⟩ := h
  simp only [Sdb.dsr, hscnt, hqcnt, hdst, hpst, hperr]

end DecodeBufferAlike

/-! ## Two machines running one command side by side -/

theorem State.Alike.seb_alike {s t : State} (h : s.Alike t) : s.seb.Alike t.seb := h.1

theorem State.Alike.sdb_alike {s t : State} (h : s.Alike t) : s.sdb.Alike t.sdb := h.2.1

theorem State.Alike.now_eq {s t : State} (h : s.Alike t) : s.now = t.now := by
  obtain ⟨-, -, -, hnow⟩ := h
  exact hnow

/-- From `s` and `s'` two machines have come to `t` and `t'`, alike, with the same responses and transfers added. -/
def SideBySide (s s' t t' : State) : Prop := t.Alike t' ∧ SamePorts s t s' t'

section SideBySideOperations
variable {s s' t t' : State}

theorem SideBySide.alike (h : SideBySide s s' t t') : t.Alike t' := h.1

theorem SideBySide.start (h : s.Alike s') : SideBySide s s' s s' := ⟨h, [], [], by simp, by simp, by simp, by simp⟩

theorem SideBySide.withSeb (h : SideBySide s s' t t') {e e' : Seb} (he : e.Alike e') :
    SideBySide s s' (t.withSeb e) (t'.withSeb e') := by
  obtain ⟨⟨-, hsdb, hwaiting, hnow⟩, hports⟩ := h
  exact ⟨⟨he, hsdb, hwaiting, hnow⟩, hports⟩

theorem SideBySide.withSdb (h : SideBySide s s' t t') {d d' : Sdb} (hd : d.Alike d') :
    SideBySide s s' (t.withSdb d) (t'.withSdb d') := by
  obtain ⟨⟨hseb, -, hwaiting, hnow⟩, hports⟩ := h
  exact ⟨⟨hseb, hd, hwaiting, hnow⟩, hports⟩

theorem SideBySide.await (h : SideBySide s s' t t') (i : Instr) (offer : Transfer) :
    SideBySide s s' (t.await i offer) (t'.await i offer) := by
  obtain ⟨⟨hseb, hsdb, -, hnow⟩, hports⟩ := h
  exact ⟨⟨hseb, hsdb, rfl, hnow⟩, hports⟩

theorem SideBySide.recordTransfer (h : SideBySide s s' t t') (offer : Transfer) (fate : Fate) :
    SideBySide s s' (t.recordTransfer offer fate) (t'.recordTransfer offer fate) := by
  obtain ⟨halike, rs, ts, hr, hr', ht, ht'⟩ := h
  exact ⟨halike, rs, ts ++ [⟨offer, fate⟩], hr, hr', by simp [ht], by simp [ht']⟩

theorem SideBySide.respond (h : SideBySide s s' t t') (st : Status) (res : Bus) (rlen : BitVec 4) :
    SideBySide s s' (t.respond st res rlen) (t'.respond st res rlen) := by
  obtain ⟨⟨hseb, hsdb, -, hnow⟩, rs, ts, hr, hr', ht, ht'⟩ := h
  exact ⟨⟨hseb, hsdb, rfl, hnow⟩, rs ++ [⟨st, res, rlen⟩], ts, by simp [hr], by simp [hr'], ht, ht'⟩

end SideBySideOperations

/-- Answers that leave the machines side by side. -/
def AnswersAlike (s s' : State) (r r' : Result) : Prop :=
  ∀ ⦃t t' : State⦄, r = .next t → r' = .next t' → SideBySide s s' t t'

section AnswersAlikeByOperation
variable {s s' u u' : State}

theorem SideBySide.answersAlike (h : SideBySide s s' u u') : AnswersAlike s s' (.next u) (.next u') := by
  intro t t' ht ht'
  cases ht
  cases ht'
  exact h

theorem respond_answersAlike (h : SideBySide s s' u u') (st : Status) (res : Bus) (rlen : BitVec 4) :
    AnswersAlike s s' (respond st res rlen u) (respond st res rlen u') :=
  (h.respond st res rlen).answersAlike

theorem sinkFailed_answersAlike (h : SideBySide s s' u u') (c : Byte) :
    AnswersAlike s s' (sinkFailed c u) (sinkFailed c u') :=
  respond_answersAlike (h.withSeb (h.alike.seb_alike.failed c)) _ _ _

theorem AnswersOpnd.answersAlike {f : State → Result} (hf : AnswersOpnd f) (h : s.Alike s') :
    AnswersAlike s s' (f s) (f s') := by
  obtain ⟨st, res, rlen, heq⟩ := hf s.now.opnd
  rw [heq s rfl, heq s' (congrArg PortInput.opnd h.now_eq.symm)]
  exact respond_answersAlike (.start h) st res rlen

/-- A transfer of the same symbols meets the same answer of the sink on both sides. -/
theorem sinkTransfer_answersAlike (h : s.Alike s') (i : Instr) (syms : List Byte)
    {onAccept : State → Result} {onFail : Byte → State → Result}
    (hAccept : ∀ ⦃v v' : State⦄, SideBySide s s' v v' → AnswersAlike s s' (onAccept v) (onAccept v'))
    (hFail : ∀ ⦃v v' : State⦄ (c : Byte), SideBySide s s' v v' → AnswersAlike s s' (onFail c v) (onFail c v')) :
    AnswersAlike s s' (sinkTransfer i syms onAccept onFail s) (sinkTransfer i syms onAccept onFail s') := by
  unfold sinkTransfer
  rw [← h.now_eq]
  cases s.now.ans with
  | none => exact ((SideBySide.start h).await i _).answersAlike
  | some answer =>
    cases answer with
    | accept => exact hAccept ((SideBySide.start h).recordTransfer _ _)
    | fail c => exact hFail c ((SideBySide.start h).recordTransfer _ _)

theorem admitInput_answersAlike (h : s.Alike s') {consume : Sdb → Sdb}
    (hc : ∀ ⦃d e : Sdb⦄, d.Alike e → (consume d).Alike (consume e)) :
    AnswersAlike s s' (admitInput consume s) (admitInput consume s') := by
  have hsdb := h.sdb_alike
  unfold admitInput
  rw [← hsdb.dst_eq, ← hsdb.qcnt_eq]
  split
  · exact respond_answersAlike (.start h) _ _ _
  · split
    · exact respond_answersAlike (.start h) _ _ _
    · exact respond_answersAlike ((SideBySide.start h).withSdb (hc hsdb)) _ _ _

end AnswersAlikeByOperation

section AnswersAlikeByCommand
variable {s s' : State}

theorem execEwrite_answersAlike (h : s.Alike s') (b : Byte) :
    AnswersAlike s s' (execEwrite b s) (execEwrite b s') := by
  have hseb := h.seb_alike
  have ⟨hvcnt, hclosed, herrv, herrc, hpending⟩ := hseb
  cases he : s.seb.errv with
  | true =>
    rw [execEwrite_of_failed he, execEwrite_of_failed (herrv ▸ he), herrc]
    exact respond_answersAlike (.start h) _ _ _
  | false =>
    cases hc : s.seb.closed with
    | true =>
      rw [execEwrite_of_closed he hc, execEwrite_of_closed (herrv ▸ he) (hclosed ▸ hc)]
      exact respond_answersAlike (.start h) _ _ _
    | false =>
      by_cases hroom : s.seb.vcnt < 4#3
      · rw [execEwrite_of_room he hc hroom, execEwrite_of_room (herrv ▸ he) (hclosed ▸ hc) (hvcnt ▸ hroom)]
        exact respond_answersAlike ((SideBySide.start h).withSeb (hseb.absorb b hroom)) _ _ _
      · rw [execEwrite_of_full he hc hroom, execEwrite_of_full (herrv ▸ he) (hclosed ▸ hc) (hvcnt ▸ hroom),
          hpending]
        refine sinkTransfer_answersAlike h _ _ (fun _ _ hv => ?_) (fun _ _ c hv => sinkFailed_answersAlike hv c)
        have hseb' := hv.alike.seb_alike
        exact respond_answersAlike (hv.withSeb (hseb'.emptied hseb'.closed_eq)) _ _ _

theorem execEclose_answersAlike (h : s.Alike s') : AnswersAlike s s' (execEclose s) (execEclose s') := by
  have hseb := h.seb_alike
  have ⟨hvcnt, hclosed, herrv, herrc, hpending⟩ := hseb
  cases he : s.seb.errv with
  | true =>
    rw [execEclose_of_failed he, execEclose_of_failed (herrv ▸ he), herrc]
    exact respond_answersAlike (.start h) _ _ _
  | false =>
    cases hc : s.seb.closed with
    | true =>
      rw [execEclose_of_closed he hc, execEclose_of_closed (herrv ▸ he) (hclosed ▸ hc)]
      exact respond_answersAlike (.start h) _ _ _
    | false =>
      by_cases hempty : s.seb.vcnt = 0
      · rw [execEclose_of_empty he hc hempty, execEclose_of_empty (herrv ▸ he) (hclosed ▸ hc) (hvcnt ▸ hempty)]
        exact respond_answersAlike ((SideBySide.start h).withSeb hseb.closed) _ _ _
      · rw [execEclose_of_pending he hc hempty, execEclose_of_pending (herrv ▸ he) (hclosed ▸ hc) (hvcnt ▸ hempty),
          hpending]
        refine sinkTransfer_answersAlike h _ _ (fun _ _ hv => ?_) (fun _ _ c hv => sinkFailed_answersAlike hv c)
        exact respond_answersAlike (hv.withSeb (hv.alike.seb_alike.emptied rfl)) _ _ _

theorem execDread_answersAlike (h : s.Alike s') (hd : s.sdb.Inv) (hd' : s'.sdb.Inv) :
    AnswersAlike s s' (execDread s) (execDread s') := by
  have hsdb := h.sdb_alike
  by_cases hq : s.sdb.qcnt = 0
  · rw [execDread_of_empty hq, execDread_of_empty (hsdb.qcnt_eq ▸ hq), hsdb.emptyAnswer_eq]
    exact respond_answersAlike (.start h) _ _ _
  · obtain ⟨hhead, hrest⟩ := hsdb.head_eq_and_dequeue hd hd' hq
    rw [execDread_of_queued hq, execDread_of_queued (hsdb.qcnt_eq ▸ hq), hhead]
    exact respond_answersAlike ((SideBySide.start h).withSdb hrest) _ _ _

/-- Only DREAD needs an invariant: its queue must lie within QBUF. -/
theorem exec_answersAlike (i : Instr) (h : s.Alike s') (hd : s.sdb.Inv) (hd' : s'.sdb.Inv) :
    AnswersAlike s s' (exec i s) (exec i s') := by
  have hstart : SideBySide s s' s s' := .start h
  cases i with
  | encq k => exact (execEncq_answersOpnd k).answersAlike h
  | decq j => exact (execDecq_answersOpnd j).answersAlike h
  | elen => exact execElen_answersOpnd.answersAlike h
  | dlen => exact execDlen_answersOpnd.answersAlike h
  | ewrite b => exact execEwrite_answersAlike h b
  | eclose => exact execEclose_answersAlike h
  | erst => exact respond_answersAlike (hstart.withSeb (.refl Seb.reset)) _ _ _
  | estat =>
    simp only [exec, execEstat, h.seb_alike.esr_eq]
    exact respond_answersAlike hstart _ _ _
  | dpush b => exact admitInput_answersAlike h fun _ _ hde => hde.push b
  | dend => exact admitInput_answersAlike h fun _ _ hde => hde.endInput
  | dfail c => exact admitInput_answersAlike h fun _ _ hde => hde.endGroup .term rfl (by simp) rfl
  | dread => exact execDread_answersAlike h hd hd'
  | drst => exact respond_answersAlike (hstart.withSdb (.refl Sdb.reset)) _ _ _
  | dstat =>
    simp only [exec, execDstat, h.sdb_alike.dsr_eq]
    exact respond_answersAlike hstart _ _ _

end AnswersAlikeByCommand

/-- Settles O38: every command runs side by side in the two states. -/
theorem unreadEntriesAreUnobservable : Obligations.UnreadEntriesAreUnobservable := by
  rintro i s s' t t' ⟨-, hd, -⟩ ⟨-, hd', -⟩ h ht ht'
  exact exec_answersAlike i h hd hd' ht ht'

end Sys2Proof.Machine

namespace Sys2Proof.Machine

/-! ## Which transfers wait for the sink (41_stream_encoder.md R141) -/

section SinkTransferEquations
variable {i : Instr} {syms : List Byte} {onAccept : State → Result} {onFail : Byte → State → Result} {s : State}

theorem sinkTransfer_of_unanswered (h : s.now.ans = none) :
    sinkTransfer i syms onAccept onFail s = .next (s.await i (offerOf syms)) := by simp only [sinkTransfer, h]

theorem sinkTransfer_of_accept (h : s.now.ans = some .accept) :
    sinkTransfer i syms onAccept onFail s = onAccept (s.recordTransfer (offerOf syms) .accepted) := by
  simp only [sinkTransfer, h]

theorem sinkTransfer_of_fail {c : Byte} (h : s.now.ans = some (.fail c)) :
    sinkTransfer i syms onAccept onFail s = onFail c (s.recordTransfer (offerOf syms) (.failed c)) := by
  simp only [sinkTransfer, h]

end SinkTransferEquations

/-- Only an EWRITE of the fifth byte and an ECLOSE with bytes pending make a transfer, and only in an open buffer without a
failure (41_stream_encoder.md R143, R147). -/
theorem transferOf_some {i : Instr} {e : Seb} {offer : Transfer} (h : transferOf i e = some offer) :
    e.errv = false ∧ e.closed = false ∧
      ((∃ b, i = .ewrite b ∧ e.vcnt = 4#3 ∧ offer = offerOf (encodeQuantum (e.pending ++ [b]))) ∨
        (i = .eclose ∧ e.vcnt ≠ 0 ∧ offer = offerOf (encodeQuantum e.pending))) := by
  unfold transferOf at h
  split at h
  · cases h
  · rename_i hopen
    obtain ⟨herr, hcl⟩ : e.errv = false ∧ e.closed = false := by simpa using hopen
    refine ⟨herr, hcl, ?_⟩
    cases i with
    | ewrite b =>
      obtain ⟨hfull, hoffer⟩ := Option.ite_none_right_eq_some.mp h
      exact .inl ⟨b, rfl, hfull, (Option.some.inj hoffer).symm⟩
    | eclose =>
      obtain ⟨hpending, hoffer⟩ := Option.ite_none_left_eq_some.mp h
      exact .inr ⟨rfl, hpending, (Option.some.inj hoffer).symm⟩
    | _ => cases h

/-- A command that makes a transfer waits for it while the sink does not answer (20_memory.md R55). -/
theorem exec_of_transferOf {i : Instr} {s : State} {offer : Transfer} (h : transferOf i s.seb = some offer)
    (hans : s.now.ans = none) : exec i s = .next (s.await i offer) := by
  obtain ⟨herr, hcl, ⟨b, rfl, hfull, rfl⟩ | ⟨rfl, hpending, rfl⟩⟩ := transferOf_some h
  · exact (execEwrite_of_full herr hcl (by simp [hfull])).trans (sinkTransfer_of_unanswered hans)
  · exact (execEclose_of_pending herr hcl hpending).trans (sinkTransfer_of_unanswered hans)

/-- While a command waits and RST is low, a step runs that command, whatever is presented (70_reset_and_hazards.md R279). -/
theorem step_of_waiting {s : State} {w : Waiting} {p : PortInput} {rest : List PortInput} (hw : s.waiting = some w)
    (hscript : s.script = p :: rest) (hrst : p.rst = false) :
    step s = exec w.cmd { s with now := p, script := rest } := by
  have hsel : State.select { s with now := p, script := rest } = .run w.cmd := by simp [State.select, hrst, hw]
  rw [step_of_input hscript, stepInput, hsel]

/-- Settles O10: the waiting command makes the transfer it waits for again and goes on waiting for it. -/
theorem waitingChangesNothing : Obligations.WaitingChangesNothing := by
  intro s p rest hinv hwaits hscript hrst hans
  obtain ⟨-, -, hwaitOk⟩ := hinv
  obtain ⟨w, hw⟩ := Option.isSome_iff_exists.mp hwaits
  have hmakes : transferOf w.cmd s.seb = some w.offer := hwaitOk w hw
  calc step s
    _ = exec w.cmd { s with now := p, script := rest } := step_of_waiting hw hscript hrst
    _ = .next (State.await { s with now := p, script := rest } w.cmd w.offer) := exec_of_transferOf hmakes hans
    _ = .next { s with now := p, script := rest } := by rw [State.await, ← hw]

/-! ## What a command reads and changes, by its unit (20_memory.md R58, 10_state.md R25) -/

/-- These transfers have ended. -/
def State.recordTransfers (s : State) (ts : List TransferRecord) : State := { s with transfers := s.transfers ++ ts }

theorem State.recordTransfers_nil (s : State) : s.recordTransfers [] = s := by
  simp only [State.recordTransfers, List.append_nil]

/-- The encode buffer holds `e` and the sink's answer is `ans`: all that an SEB command reads. -/
def State.Shows (s : State) (e : Seb) (ans : Option SinkAnswer) : Prop := s.seb = e ∧ s.now.ans = ans

/-- The commands that may make a transfer (41_stream_encoder.md R143, R147). -/
def MayTransfer (i : Instr) : Prop := i = .eclose ∨ ∃ b, i = .ewrite b

/-- From these registers and this answer of the sink, which is none, the command waits for a transfer. -/
def Waits (i : Instr) (e : Seb) (ans : Option SinkAnswer) : Prop :=
  MayTransfer i ∧ ans = none ∧ ∃ offer, ∀ s : State, s.Shows e ans → exec i s = .next (s.await i offer)

/-- From these registers and this answer of the sink, the command ends its transfers, writes its unit's registers and
answers. -/
def Completes (i : Instr) (e : Seb) (ans : Option SinkAnswer) : Prop :=
  ∃ ts e' st res rlen, ∀ s : State, s.Shows e ans →
    exec i s = respond st res rlen ((s.recordTransfers ts).withSeb e')

/-- A command that reads nothing but the encode buffer and the sink's answer, and waits only without an answer. -/
def RunsOnSeb (i : Instr) : Prop := ∀ e ans, Waits i e ans ∨ Completes i e ans

/-- A meaning that reads nothing but the decode buffer, and does nothing but write it and answer. -/
def RunsOnSdb (f : State → Result) : Prop :=
  ∀ d : Sdb, ∃ d' st res rlen, ∀ s : State, s.sdb = d → f s = respond st res rlen (s.withSdb d')

section EncodeBufferCommands
variable {i : Instr} {e : Seb} {ans : Option SinkAnswer}

/-- A command that makes no transfer. -/
theorem completes_of_respond {e' : Seb} {st : Status} {res : Bus} {rlen : BitVec 4}
    (h : ∀ s : State, s.Shows e ans → exec i s = respond st res rlen (s.withSeb e')) : Completes i e ans :=
  ⟨[], e', st, res, rlen, fun s hs => by rw [State.recordTransfers_nil, h s hs]⟩

/-- A command that makes a transfer and, when it is accepted, writes the registers `g` gives. -/
theorem waits_or_completes_of_sinkTransfer (hi : MayTransfer i) {syms : List Byte} {g : Seb → Seb}
    (h : ∀ s : State, s.Shows e ans →
      exec i s = sinkTransfer i syms (fun t => respond .ok 0 0 (t.withSeb (g t.seb))) sinkFailed s) :
    Waits i e ans ∨ Completes i e ans := by
  cases ans with
  | none => exact .inl ⟨hi, rfl, _, fun s hs => (h s hs).trans (sinkTransfer_of_unanswered hs.2)⟩
  | some answer =>
    right
    cases answer with
    | accept =>
      refine ⟨[⟨offerOf syms, .accepted⟩], g e, .ok, 0, 0, fun s hs => ?_⟩
      obtain ⟨rfl, hans⟩ := hs
      exact (h s ⟨rfl, hans⟩).trans (sinkTransfer_of_accept hans)
    | fail c =>
      refine ⟨[⟨offerOf syms, .failed c⟩], { e with errv := true, errc := c }, .ioerr, zextByte c, 0, fun s hs => ?_⟩
      obtain ⟨rfl, hans⟩ := hs
      exact (h s ⟨rfl, hans⟩).trans (sinkTransfer_of_fail hans)

end EncodeBufferCommands

theorem ewrite_runsOnSeb (b : Byte) : RunsOnSeb (.ewrite b) := by
  intro e ans
  cases herr : e.errv with
  | true =>
    exact .inr (completes_of_respond (e' := e) (res := zextByte e.errc)
      (by rintro s ⟨rfl, -⟩; exact execEwrite_of_failed herr))
  | false =>
    cases hcl : e.closed with
    | true => exact .inr (completes_of_respond (e' := e) (by rintro s ⟨rfl, -⟩; exact execEwrite_of_closed herr hcl))
    | false =>
      by_cases hroom : e.vcnt < 4#3
      · exact .inr (completes_of_respond (e' := e.absorb b)
          (by rintro s ⟨rfl, -⟩; exact execEwrite_of_room herr hcl hroom))
      · exact waits_or_completes_of_sinkTransfer (.inr ⟨b, rfl⟩) (syms := encodeQuantum (e.pending ++ [b]))
          (g := fun x => { x with vcnt := 0 }) (by rintro s ⟨rfl, -⟩; exact execEwrite_of_full herr hcl hroom)

theorem eclose_runsOnSeb : RunsOnSeb .eclose := by
  intro e ans
  cases herr : e.errv with
  | true =>
    exact .inr (completes_of_respond (e' := e) (res := zextByte e.errc)
      (by rintro s ⟨rfl, -⟩; exact execEclose_of_failed herr))
  | false =>
    cases hcl : e.closed with
    | true => exact .inr (completes_of_respond (e' := e) (by rintro s ⟨rfl, -⟩; exact execEclose_of_closed herr hcl))
    | false =>
      by_cases hempty : e.vcnt = 0
      · exact .inr (completes_of_respond (e' := { e with closed := true })
          (by rintro s ⟨rfl, -⟩; exact execEclose_of_empty herr hcl hempty))
      · exact waits_or_completes_of_sinkTransfer (.inl rfl) (syms := encodeQuantum e.pending)
          (g := fun x => { x with vcnt := 0, closed := true })
          (by rintro s ⟨rfl, -⟩; exact execEclose_of_pending herr hcl hempty)

theorem erst_completes (e : Seb) (ans : Option SinkAnswer) : Completes .erst e ans :=
  completes_of_respond fun _ _ => rfl

theorem estat_completes (e : Seb) (ans : Option SinkAnswer) : Completes .estat e ans :=
  completes_of_respond (e' := e) (by rintro s ⟨rfl, -⟩; rfl)

theorem admitInput_runsOnSdb (consume : Sdb → Sdb) : RunsOnSdb (admitInput consume) := by
  intro d
  by_cases hterm : d.dst = .term
  · exact ⟨d, .closed, 0, 0, by rintro s rfl; exact if_pos hterm⟩
  · by_cases hqueue : d.qcnt = 0
    · exact ⟨consume d, .ok, 0, 0, by rintro s rfl; exact (if_neg hterm).trans (if_neg (not_not.mpr hqueue))⟩
    · exact ⟨d, .busy, 0, 0, by rintro s rfl; exact (if_neg hterm).trans (if_pos hqueue)⟩

theorem execDread_runsOnSdb : RunsOnSdb execDread := by
  intro d
  by_cases hq : d.qcnt = 0
  · exact ⟨d, d.emptyAnswer.1, d.emptyAnswer.2, 0, by rintro s rfl; exact execDread_of_empty hq⟩
  · exact ⟨d.dequeue, .ok, zextByte d.head, 1, by rintro s rfl; exact execDread_of_queued hq⟩

/-- Every command runs on its own unit. -/
theorem exec_runsOnUnit (i : Instr) :
    (i.component = .streamingEncodeBuffer ∧ RunsOnSeb i) ∨
    (i.component = .streamingDecodeBuffer ∧ RunsOnSdb (exec i)) ∨
    (i.component ≠ .streamingEncodeBuffer ∧ i.component ≠ .streamingDecodeBuffer ∧ AnswersOpnd (exec i)) := by
  cases i with
  | encq k => exact .inr (.inr ⟨nofun, nofun, execEncq_answersOpnd k⟩)
  | decq j => exact .inr (.inr ⟨nofun, nofun, execDecq_answersOpnd j⟩)
  | elen => exact .inr (.inr ⟨nofun, nofun, execElen_answersOpnd⟩)
  | dlen => exact .inr (.inr ⟨nofun, nofun, execDlen_answersOpnd⟩)
  | ewrite b => exact .inl ⟨rfl, ewrite_runsOnSeb b⟩
  | eclose => exact .inl ⟨rfl, eclose_runsOnSeb⟩
  | erst => exact .inl ⟨rfl, fun e ans => .inr (erst_completes e ans)⟩
  | estat => exact .inl ⟨rfl, fun e ans => .inr (estat_completes e ans)⟩
  | dpush b => exact .inr (.inl ⟨rfl, admitInput_runsOnSdb fun d => d.push b⟩)
  | dend => exact .inr (.inl ⟨rfl, admitInput_runsOnSdb Sdb.endInput⟩)
  | dfail c =>
    exact .inr (.inl ⟨rfl, admitInput_runsOnSdb fun d => { d with scnt := 0, dst := .term, pst := .ioerr, perr := c }⟩)
  | dread => exact .inr (.inl ⟨rfl, execDread_runsOnSdb⟩)
  | drst => exact .inr (.inl ⟨rfl, fun _ => ⟨_, _, _, _, fun _ _ => rfl⟩⟩)
  | dstat => exact .inr (.inl ⟨rfl, fun d => ⟨d, .ok, _, 0, by rintro s rfl; rfl⟩⟩)

/-! What a command leaves alone, by the unit it runs on. -/

theorem RunsOnSdb.changes {f : State → Result} (hf : RunsOnSdb f) {s t : State} (h : f s = .next t) :
    t.seb = s.seb ∧ t.transfers = s.transfers ∧ t.waiting = none := by
  obtain ⟨d, st, res, rlen, heq⟩ := hf s.sdb
  rw [respond_next.mp ((heq s rfl).symm.trans h)]
  exact ⟨rfl, rfl, rfl⟩

theorem AnswersOpnd.changes {f : State → Result} (hf : AnswersOpnd f) {s t : State} (h : f s = .next t) :
    t.seb = s.seb ∧ t.sdb = s.sdb ∧ t.transfers = s.transfers ∧ t.waiting = none := by
  obtain ⟨st, res, rlen, heq⟩ := hf s.now.opnd
  rw [respond_next.mp ((heq s rfl).symm.trans h)]
  exact ⟨rfl, rfl, rfl, rfl⟩

theorem RunsOnSeb.sdb_eq {i : Instr} (hi : RunsOnSeb i) {s t : State} (h : exec i s = .next t) : t.sdb = s.sdb := by
  obtain ⟨-, -, offer, heq⟩ | ⟨ts, e, st, res, rlen, heq⟩ := hi s.seb s.now.ans
  · cases (heq s ⟨rfl, rfl⟩).symm.trans h
    rfl
  · rw [respond_next.mp ((heq s ⟨rfl, rfl⟩).symm.trans h)]
    rfl

/-! What two states that agree on a command's unit give. -/

/-- States that come from two others by the same answer, with the same transfers ended. -/
theorem samePorts_respond {s s' u u' : State} {ts : List TransferRecord} (st : Status) (res : Bus) (rlen : BitVec 4)
    (hr : u.responses = s.responses) (hr' : u'.responses = s'.responses)
    (ht : u.transfers = s.transfers ++ ts) (ht' : u'.transfers = s'.transfers ++ ts) :
    SamePorts s (u.respond st res rlen) s' (u'.respond st res rlen) :=
  ⟨[⟨st, res, rlen⟩], ts, by simp [hr], by simp [hr'], ht, ht'⟩

theorem RunsOnSeb.agree {i : Instr} (hi : RunsOnSeb i) {s s' t t' : State} (h : exec i s = .next t)
    (h' : exec i s' = .next t') (hseb : s.seb = s'.seb) (hans : s.now.ans = s'.now.ans) :
    t.seb = t'.seb ∧ t.waiting = t'.waiting ∧ SamePorts s t s' t' := by
  have hs : s.Shows s.seb s.now.ans := ⟨rfl, rfl⟩
  have hs' : s'.Shows s.seb s.now.ans := ⟨hseb.symm, hans.symm⟩
  obtain ⟨-, -, offer, heq⟩ | ⟨ts, e, st, res, rlen, heq⟩ := hi s.seb s.now.ans
  · cases (heq s hs).symm.trans h
    cases (heq s' hs').symm.trans h'
    exact ⟨hseb, rfl, [], [], by simp, by simp, by simp, by simp⟩
  · rw [respond_next.mp ((heq s hs).symm.trans h), respond_next.mp ((heq s' hs').symm.trans h')]
    exact ⟨rfl, rfl, samePorts_respond (ts := ts) st res rlen rfl rfl rfl rfl⟩

theorem RunsOnSdb.agree {f : State → Result} (hf : RunsOnSdb f) {s s' t t' : State} (h : f s = .next t)
    (h' : f s' = .next t') (hsdb : s.sdb = s'.sdb) : t.sdb = t'.sdb ∧ SamePorts s t s' t' := by
  obtain ⟨d, st, res, rlen, heq⟩ := hf s.sdb
  rw [respond_next.mp ((heq s rfl).symm.trans h), respond_next.mp ((heq s' hsdb.symm).symm.trans h')]
  exact ⟨rfl, samePorts_respond (ts := []) st res rlen rfl rfl (by simp) (by simp)⟩

theorem AnswersOpnd.agree {f : State → Result} (hf : AnswersOpnd f) {s s' t t' : State} (h : f s = .next t)
    (h' : f s' = .next t') (hopnd : s.now.opnd = s'.now.opnd) : SamePorts s t s' t' := by
  obtain ⟨st, res, rlen, heq⟩ := hf s.now.opnd
  rw [respond_next.mp ((heq s rfl).symm.trans h), respond_next.mp ((heq s' hopnd.symm).symm.trans h')]
  exact samePorts_respond (ts := []) st res rlen rfl rfl (by simp) (by simp)

/-- Settles O31: whichever unit a command is of, it runs on that unit. -/
theorem unitsAreIndependent : Obligations.UnitsAreIndependent := by
  refine ⟨fun i s t h => ?_, fun i s s' t t' h h' => ?_⟩
  · obtain ⟨hunit, hruns⟩ | ⟨hunit, hruns⟩ | ⟨-, -, hruns⟩ := exec_runsOnUnit i
    · exact ⟨fun hne => absurd hunit hne, fun _ => hruns.sdb_eq h⟩
    · exact ⟨fun _ => hruns.changes h, fun hne => absurd hunit hne⟩
    · obtain ⟨hseb, hsdb, hports⟩ := hruns.changes h
      exact ⟨fun _ => ⟨hseb, hports⟩, fun _ => hsdb⟩
  · obtain ⟨hunit, hruns⟩ | ⟨hunit, hruns⟩ | ⟨hseb, hsdb, hruns⟩ := exec_runsOnUnit i
    · rw [hunit]
      exact ⟨fun _ he ha _ => hruns.agree h h' he ha, nofun, fun hne => absurd rfl hne⟩
    · rw [hunit]
      exact ⟨nofun, fun _ hd => hruns.agree h h' hd, fun _ hne => absurd rfl hne⟩
    · exact ⟨fun hu => absurd hu hseb, fun hu => absurd hu hsdb, fun _ _ ho => hruns.agree h h' ho⟩

/-! ## A late answer of the sink (20_memory.md R55) -/

/-- A command that waits afterwards is one that makes transfers, and nothing else has happened. -/
theorem exec_waiting {i : Instr} {s t : State} (h : exec i s = .next t) (hwaits : t.waiting.isSome = true) :
    MayTransfer i ∧ RunsOnSeb i ∧ ∃ offer, t = s.await i offer := by
  have hne : t.waiting ≠ none := Option.isSome_iff_ne_none.mp hwaits
  obtain ⟨-, hruns⟩ | ⟨-, hruns⟩ | ⟨-, -, hruns⟩ := exec_runsOnUnit i
  · obtain ⟨hi, -, offer, heq⟩ | ⟨ts, e, st, res, rlen, heq⟩ := hruns s.seb s.now.ans
    · cases (heq s ⟨rfl, rfl⟩).symm.trans h
      exact ⟨hi, hruns, offer, rfl⟩
    · rw [respond_next.mp ((heq s ⟨rfl, rfl⟩).symm.trans h)] at hne
      exact absurd rfl hne
  · obtain ⟨-, -, hnone⟩ := hruns.changes h
    exact absurd hnone hne
  · obtain ⟨-, -, -, hnone⟩ := hruns.changes h
    exact absurd hnone hne

/-- With the sink's answer there, it makes no difference to an SEB command whether it was waiting. -/
theorem RunsOnSeb.exec_withWaiting {i : Instr} (hi : RunsOnSeb i) {s : State} {a : SinkAnswer}
    (hans : s.now.ans = some a) (w : Option Waiting) : exec i { s with waiting := w } = exec i s := by
  obtain ⟨-, hnone, -⟩ | ⟨ts, e, st, res, rlen, heq⟩ := hi s.seb (some a)
  · cases hnone
  · rw [heq s ⟨rfl, hans⟩, heq { s with waiting := w } ⟨rfl, hans⟩]
    rfl

/-- Settles O11: the command that waited is run again on the same registers, and its answer ends the wait. -/
theorem lateAnswerActsAsPromptAnswer : Obligations.LateAnswerActsAsPromptAnswer := by
  intro i s w p rest a _ hexec hwaits hscript hrst hans
  obtain ⟨hi, hruns, offer, rfl⟩ := exec_waiting hexec hwaits
  refine ⟨hi, rfl, ?_⟩
  calc step (s.await i offer)
    _ = exec i { s.await i offer with now := p, script := rest } := step_of_waiting rfl hscript hrst
    _ = exec i { s with now := p, script := rest } :=
      hruns.exec_withWaiting (s := { s with now := p, script := rest }) hans _

end Sys2Proof.Machine

namespace Sys2Proof

/-! ## A word and its three fields (30_encoding.md R70) -/

section Fields
variable (w : CmdWord)

theorem opField_toNat : (opField w).toNat = w.toNat / 4096 := by
  have hw : w.toNat < 65536 := w.isLt
  rw [opField, BitVec.extractLsb'_toNat, Nat.shiftRight_eq_div_pow]
  omega

theorem argField_toNat : (argField w).toNat = w.toNat / 256 % 16 := by
  rw [argField, BitVec.extractLsb'_toNat, Nat.shiftRight_eq_div_pow]

theorem dataField_toNat : (dataField w).toNat = w.toNat % 256 := by
  rw [dataField, BitVec.extractLsb'_toNat, Nat.shiftRight_zero]

theorem word_of_fields : opField w ++ argField w ++ dataField w = w := by
  apply BitVec.eq_of_toNat_eq
  rw [Laws.toNat_of_fields, opField_toNat, argField_toNat, dataField_toNat]
  omega

end Fields

theorem fields_of_encode (i : Instr) :
    opField (encode i) = opcodeOf i ∧ argField (encode i) = argOf i ∧ dataField (encode i) = dataOf i :=
  Laws.fields_of_word _ _ _

/-! ## The opcode map (30_encoding.md R71, R75): which fields a command's format leaves at zero, and what OP selects -/

theorem argOf_eq_zero {i : Instr} (h : i.format ≠ .q) : argOf i = 0 := by
  cases i with
  | encq k => exact absurd rfl h
  | decq j => exact absurd rfl h
  | _ => rfl

theorem dataOf_eq_zero {i : Instr} (h : i.format ≠ .b) : dataOf i = 0 := by
  cases i with
  | ewrite b => exact absurd rfl h
  | dpush s => exact absurd rfl h
  | dfail c => exact absurd rfl h
  | _ => rfl

theorem format_eq_q_iff {i : Instr} : i.format = .q ↔ (opcodeOf i).toNat = 1 ∨ (opcodeOf i).toNat = 2 := by
  cases i <;> simp [Instr.format, opcodeOf]

theorem format_eq_b_iff {i : Instr} :
    i.format = .b ↔ (opcodeOf i).toNat = 5 ∨ (opcodeOf i).toNat = 9 ∨ (opcodeOf i).toNat = 11 := by
  cases i <;> simp [Instr.format, opcodeOf]

/-- A command is ill formed only by its length (R76 step 4). -/
theorem wellFormed_eq_false_iff {i : Instr} :
    i.wellFormed = false ↔
      (opcodeOf i).toNat = 1 ∧ 5 < (argOf i).toNat ∨ (opcodeOf i).toNat = 2 ∧ 8 < (argOf i).toNat := by
  cases i <;> simp [Instr.wellFormed, opcodeOf, argOf, BitVec.lt_def]

section CommandOf
variable {op arg : BitVec 4} {data : Byte}

theorem commandOf_eq_none_iff : commandOf op arg data = none ↔ op.toNat = 0 ∨ op.toNat = 15 := by
  have hop : op.toNat < 16 := op.isLt
  unfold commandOf
  split
  case h_15 => simp only [imp_false, true_iff] at *; omega
  all_goals simp only [reduceCtorEq, false_iff]; omega

/-- OP selects the command whose OP it is, with the field that its format reads as its operand. -/
theorem commandOf_eq_some_iff {i : Instr} :
    commandOf op arg data = some i ↔
      opcodeOf i = op ∧ (i.format = .q → argOf i = arg) ∧ (i.format = .b → dataOf i = data) := by
  constructor
  · intro h
    unfold commandOf at h
    split at h <;> cases h <;>
      exact ⟨BitVec.eq_of_toNat_eq (Eq.symm ‹_›), by simp [Instr.format, argOf], by simp [Instr.format, dataOf]⟩
  · rintro ⟨rfl, harg, hdata⟩
    cases i with
    | encq k => rw [← harg rfl]; rfl
    | decq j => rw [← harg rfl]; rfl
    | ewrite b => rw [← hdata rfl]; rfl
    | dpush s => rw [← hdata rfl]; rfl
    | dfail c => rw [← hdata rfl]; rfl
    | _ => rfl

end CommandOf

/-! ## The decoder: an equation per check of 30_encoding.md R76 -/

section Decode
variable {w : CmdWord} {i : Instr}

/-- `w` has the OP of the command `i`, and the operand field that its format reads. -/
def Selects (w : CmdWord) (i : Instr) : Prop := commandOf (opField w) (argField w) (dataField w) = some i

theorem Selects.opField_eq (h : Selects w i) : opcodeOf i = opField w := (commandOf_eq_some_iff.mp h).1

theorem exists_selects (h0 : (opField w).toNat ≠ 0) (h15 : (opField w).toNat ≠ 15) : ∃ i, Selects w i :=
  Option.ne_none_iff_exists'.mp fun h => (commandOf_eq_none_iff.mp h).elim h0 h15

theorem decode_of_reserved (h : (opField w).toNat = 0 ∨ (opField w).toNat = 15) : decode w = .error .reservedOp := by
  simp only [decode, commandOf_eq_none_iff.mpr h]

theorem Selects.decode_eq (h : Selects w i) :
    decode w =
      if i.format ≠ .q ∧ argField w ≠ 0 then .error .argNotZero
      else if i.format ≠ .b ∧ dataField w ≠ 0 then .error .dataNotZero
      else if i.wellFormed then .ok i
      else .error .lengthOutOfRange := by
  rw [Selects] at h
  simp only [decode, h]

theorem Selects.decode_argNotZero (h : Selects w i) (hq : i.format ≠ .q) (harg : argField w ≠ 0) :
    decode w = .error .argNotZero := by
  rw [h.decode_eq, if_pos ⟨hq, harg⟩]

theorem Selects.decode_dataNotZero (h : Selects w i) (harg : i.format = .q ∨ argField w = 0) (hb : i.format ≠ .b)
    (hdata : dataField w ≠ 0) : decode w = .error .dataNotZero := by
  rw [h.decode_eq, if_neg (by tauto), if_pos ⟨hb, hdata⟩]

theorem Selects.decode_lengthOutOfRange (h : Selects w i) (harg : i.format = .q ∨ argField w = 0)
    (hdata : i.format = .b ∨ dataField w = 0) (hlen : i.wellFormed = false) : decode w = .error .lengthOutOfRange := by
  rw [h.decode_eq, if_neg (by tauto), if_neg (by tauto), hlen]
  rfl

/-- A word decodes to a command exactly when it passes the four checks. -/
theorem decode_eq_ok_iff :
    decode w = .ok i ↔
      Selects w i ∧ (i.format ≠ .q → argField w = 0) ∧ (i.format ≠ .b → dataField w = 0) ∧ i.wellFormed = true := by
  constructor
  · intro h
    unfold decode at h
    split at h
    · cases h
    · rename_i hsel
      split_ifs at h with harg hdata hwf
      cases h
      exact ⟨hsel, by tauto, by tauto, hwf⟩
  · rintro ⟨hsel, harg, hdata, hwf⟩
    rw [hsel.decode_eq, if_neg (by tauto), if_neg (by tauto), if_pos hwf]

end Decode

/-- The word of a command selects it by its fields. -/
theorem selects_encode (i : Instr) : Selects (encode i) i := by
  obtain ⟨hop, harg, hdata⟩ := fields_of_encode i
  exact commandOf_eq_some_iff.mpr ⟨hop.symm, fun _ => harg.symm, fun _ => hdata.symm⟩

/-- Settles O1: a command's word selects it and passes the checks, since the fields its format does not read are zero. -/
theorem decodeOfEncode : Obligations.DecodeOfEncode := by
  intro i hwf
  obtain ⟨-, harg, hdata⟩ := fields_of_encode i
  exact decode_eq_ok_iff.mpr
    ⟨selects_encode i, fun hq => harg.trans (argOf_eq_zero hq), fun hb => hdata.trans (dataOf_eq_zero hb), hwf⟩

/-- Settles O2: each field of the word is the command's, either read as its operand or checked to be zero. -/
theorem encodeOfDecode : Obligations.EncodeOfDecode := by
  intro w i h
  obtain ⟨hsel, hargZero, hdataZero, hwf⟩ := decode_eq_ok_iff.mp h
  obtain ⟨hop, hargRead, hdataRead⟩ := commandOf_eq_some_iff.mp hsel
  have harg : argOf i = argField w := by
    by_cases hq : i.format = .q
    · exact hargRead hq
    · rw [argOf_eq_zero hq, hargZero hq]
  have hdata : dataOf i = dataField w := by
    by_cases hb : i.format = .b
    · exact hdataRead hb
    · rw [dataOf_eq_zero hb, hdataZero hb]
  exact ⟨by rw [encode, hop, harg, hdata, word_of_fields], hwf⟩

/-! ## Every word, by its fields as numbers (30_encoding.md R76) -/

section Numbers
variable {w : CmdWord} {op arg data : Nat}

/-- The numbers that stand in the three fields of a word. -/
def HasNumbers (w : CmdWord) (op arg data : Nat) : Prop :=
  op = (opField w).toNat ∧ arg = (argField w).toNat ∧ data = (dataField w).toNat

theorem HasNumbers.reservedOp (h : HasNumbers w op arg data) (hop : op = 0 ∨ op = 15) :
    decode w = .error .reservedOp := by
  obtain ⟨rfl, -, -⟩ := h
  exact decode_of_reserved hop

/-- A word with the numbers of a well-formed command decodes to it. -/
theorem HasNumbers.decode_eq_ok (h : HasNumbers w op arg data) (i : Instr) (hwf : i.wellFormed = true)
    (hop : op = (opcodeOf i).toNat) (harg : arg = (argOf i).toNat) (hdata : data = (dataOf i).toNat) :
    decode w = .ok i := by
  obtain ⟨rfl, rfl, rfl⟩ := h
  have hw : w = encode i := by
    rw [← word_of_fields w, BitVec.eq_of_toNat_eq hop, BitVec.eq_of_toNat_eq harg, BitVec.eq_of_toNat_eq hdata, encode]
  rw [hw, decodeOfEncode i hwf]

theorem HasNumbers.argNotZero (h : HasNumbers w op arg data) (h0 : op ≠ 0) (h15 : op ≠ 15) (h1 : op ≠ 1) (h2 : op ≠ 2)
    (harg : arg ≠ 0) : decode w = .error .argNotZero := by
  obtain ⟨rfl, rfl, -⟩ := h
  obtain ⟨i, hsel⟩ := exists_selects h0 h15
  have hq : i.format ≠ .q := by rw [ne_eq, format_eq_q_iff, hsel.opField_eq]; tauto
  exact hsel.decode_argNotZero hq fun hzero => harg (by rw [hzero]; rfl)

theorem HasNumbers.dataNotZero (h : HasNumbers w op arg data) (h0 : op ≠ 0) (h15 : op ≠ 15)
    (harg : op = 1 ∨ op = 2 ∨ arg = 0) (h5 : op ≠ 5) (h9 : op ≠ 9) (h11 : op ≠ 11) (hdata : data ≠ 0) :
    decode w = .error .dataNotZero := by
  obtain ⟨rfl, rfl, rfl⟩ := h
  obtain ⟨i, hsel⟩ := exists_selects h0 h15
  have hq : i.format = .q ∨ argField w = 0 := by
    rw [format_eq_q_iff, hsel.opField_eq, or_assoc]
    exact harg.imp_right (Or.imp_right BitVec.eq_of_toNat_eq)
  have hb : i.format ≠ .b := by rw [ne_eq, format_eq_b_iff, hsel.opField_eq]; tauto
  exact hsel.decode_dataNotZero hq hb fun hzero => hdata (by rw [hzero]; rfl)

theorem HasNumbers.lengthOutOfRange (h : HasNumbers w op arg data) (hlen : op = 1 ∧ 5 < arg ∨ op = 2 ∧ 8 < arg)
    (hdata : data = 0) : decode w = .error .lengthOutOfRange := by
  obtain ⟨rfl, rfl, rfl⟩ := h
  obtain ⟨i, hsel⟩ := exists_selects (w := w) (by omega) (by omega)
  obtain ⟨hop, hargRead, -⟩ := commandOf_eq_some_iff.mp hsel
  have hq : i.format = .q := by rw [format_eq_q_iff, hop]; tauto
  have hlong : i.wellFormed = false := by rwa [wellFormed_eq_false_iff, hop, hargRead hq]
  exact hsel.decode_lengthOutOfRange (.inl hq) (.inr (BitVec.eq_of_toNat_eq hdata)) hlong

theorem HasNumbers.encq (h : HasNumbers w op arg data) (hop : op = 1) (harg : arg ≤ 5) (hdata : data = 0) :
    decode w = .ok (.encq (BitVec.ofNat 4 arg)) := by
  have hnum : arg = (BitVec.ofNat 4 arg).toNat := by simp; omega
  exact h.decode_eq_ok _ (decide_eq_true (BitVec.le_def.mpr (hnum ▸ harg))) hop hnum hdata

theorem HasNumbers.decq (h : HasNumbers w op arg data) (hop : op = 2) (harg : arg ≤ 8) (hdata : data = 0) :
    decode w = .ok (.decq (BitVec.ofNat 4 arg)) := by
  have hnum : arg = (BitVec.ofNat 4 arg).toNat := by simp; omega
  exact h.decode_eq_ok _ (decide_eq_true (BitVec.le_def.mpr (hnum ▸ harg))) hop hnum hdata

theorem HasNumbers.data_eq (h : HasNumbers w op arg data) : data = (BitVec.ofNat 8 data).toNat := by
  obtain ⟨-, -, rfl⟩ := h
  simp

end Numbers

end Sys2Proof

namespace Sys2Proof.Machine

/-- A word that spells no command, presented while none waits, is answered ILLEGAL and changes nothing else. -/
theorem step_of_illegal {s : State} {w : CmdWord} {e : Illegal} {p : PortInput} {rest : List PortInput}
    (hdec : decode w = .error e) (hscript : s.script = p :: rest) (hrst : p.rst = false) (hcmd : p.cmd = some w)
    (hwait : s.waiting = none) :
    step s = .next { s with now := p, script := rest, responses := s.responses ++ [⟨.illegal, 0, 0⟩] } := by
  have hsel : State.select { s with now := p, script := rest } = .illegal := by
    simp [State.select, selectWord, hrst, hwait, hcmd, hdec]
  rw [step_of_input hscript, stepInput, hsel]
  refine answerIllegal_next.mpr ?_
  rw [State.respond, ← hwait]

/-- Settles O3: each clause names the numbers of the fields, and with them the check that rejects the word or the command
it spells. -/
theorem wordsDecodeOrAreIllegal : Obligations.WordsDecodeOrAreIllegal := by
  intro w op arg data hop harg hdata
  have h : HasNumbers w op arg data :=
    ⟨hop.trans (opField_toNat w).symm, harg.trans (argField_toNat w).symm, hdata.trans (dataField_toNat w).symm⟩
  refine ⟨h.reservedOp, h.argNotZero, h.dataNotZero, h.lengthOutOfRange, h.encq, h.decq, fun ha => ?_, fun ha hd => ?_,
    fun e s p rest => step_of_illegal⟩
  · exact ⟨fun ho => h.decode_eq_ok (.ewrite _) rfl ho ha h.data_eq,
      fun ho => h.decode_eq_ok (.dpush _) rfl ho ha h.data_eq,
      fun ho => h.decode_eq_ok (.dfail _) rfl ho ha h.data_eq⟩
  · refine ⟨?_, ?_, ?_, ?_, ?_, ?_, ?_, ?_, ?_⟩ <;> exact fun ho => h.decode_eq_ok _ rfl ho ha hd

/-- Settles O4: the decoder evaluates each word. -/
theorem sampleWordsDecode : Obligations.SampleWordsDecode :=
  ⟨rfl, rfl, rfl, rfl, rfl, rfl, rfl, rfl, rfl, rfl, rfl, rfl⟩

/-- Settles O5: each list of codes evaluates to its table. -/
theorem statusCodesAreTheTables : Obligations.StatusCodesAreTheTables := ⟨rfl, rfl, rfl⟩

/-! ## What a step answers (30_encoding.md R73, R76) -/

theorem execEncq_of_long {k : BitVec 4} (s : State) (h : ¬ k ≤ 5#4) : execEncq k s = answerIllegal s := if_neg h

theorem execDecq_of_long {j : BitVec 4} (s : State) (h : ¬ j ≤ 8#4) : execDecq j s = answerIllegal s := if_neg h

/-- Settles O16: neither length is in range. -/
theorem lengthOutOfRangeAnswersIllegal : Obligations.LengthOutOfRangeAnswersIllegal :=
  fun _ s => ⟨fun h => execEncq_of_long s (BitVec.not_le.mpr h), fun h => execDecq_of_long s (BitVec.not_le.mpr h)⟩

/-- A command that no word spells is answered as an illegal word is. -/
theorem exec_of_not_wellFormed {i : Instr} (s : State) (h : i.wellFormed = false) : exec i s = answerIllegal s := by
  cases i with
  | encq k => exact execEncq_of_long s (of_decide_eq_false h)
  | decq j => exact execDecq_of_long s (of_decide_eq_false h)
  | _ => cases h

/-- The answer goes on with the responses of `s` and at most one more, whose status is in `P`. -/
def Answers (P : Status → Prop) (s : State) (r : Result) : Prop :=
  ∃ t answer, r = .next t ∧ t.responses = s.responses ++ Option.toList answer ∧ ∀ x ∈ answer, P x.rsp

section AnswersByOperation
variable {P Q : Status → Prop} {s : State}

theorem Answers.mono {r : Result} (h : Answers P s r) (hPQ : ∀ st, P st → Q st) : Answers Q s r := by
  obtain ⟨t, answer, hnext, hresp, hP⟩ := h
  exact ⟨t, answer, hnext, hresp, fun x hx => hPQ _ (hP x hx)⟩

/-- A next state that has no response more than `s`. -/
theorem answers_of_silent {t : State} (h : t.responses = s.responses) : Answers P s (.next t) :=
  ⟨t, none, rfl, by simp [h], nofun⟩

/-- A response in a state that has no response more than `s`. -/
theorem respond_answers {u : State} {st : Status} {res : Bus} {rlen : BitVec 4} (hst : P st)
    (h : u.responses = s.responses := by rfl) : Answers P s (respond st res rlen u) := by
  refine ⟨_, some ⟨st, res, rlen⟩, rfl, by simp [h], ?_⟩
  rintro x ⟨⟩
  exact hst

theorem sinkTransfer_answers {i : Instr} {syms : List Byte} {onAccept : State → Result} {onFail : Byte → State → Result}
    (hAccept : ∀ u : State, Answers P u (onAccept u)) (hFail : ∀ c (u : State), Answers P u (onFail c u)) :
    Answers P s (sinkTransfer i syms onAccept onFail s) := by
  obtain ⟨-, heq⟩ | ⟨-, heq⟩ | ⟨c, -, heq⟩ := sinkTransfer_cases i syms onAccept onFail s
  · rw [heq]; exact answers_of_silent rfl
  · rw [heq]; exact hAccept _
  · rw [heq]; exact hFail c _

end AnswersByOperation

/-! A well-formed command is not answered ILLEGAL, by command. -/

section AnswersByCommand
variable {s : State}

theorem execEncq_not_illegal {k : BitVec 4} (hk : k ≤ 5#4) : Answers (· ≠ .illegal) s (execEncq k s) := by
  rw [execEncq, if_pos hk]
  exact respond_answers nofun

theorem execDecq_not_illegal {j : BitVec 4} (hj : j ≤ 8#4) : Answers (· ≠ .illegal) s (execDecq j s) := by
  cases hlane : firstInvalid (operandSymbols s.now.opnd j.toNat) with
  | some lane =>
    simp only [execDecq, if_pos hj, hlane]
    exact respond_answers nofun
  | none =>
    by_cases hlone : j = 1#4
    · simp only [execDecq, if_pos hj, hlane, if_pos hlone]
      exact respond_answers nofun
    · simp only [execDecq, if_pos hj, hlane, if_neg hlone]
      exact respond_answers nofun

theorem execEwrite_not_illegal (b : Byte) : Answers (· ≠ .illegal) s (execEwrite b s) := by
  cases herr : s.seb.errv with
  | true => exact execEwrite_of_failed herr ▸ respond_answers nofun
  | false =>
    cases hcl : s.seb.closed with
    | true => exact execEwrite_of_closed herr hcl ▸ respond_answers nofun
    | false =>
      by_cases hroom : s.seb.vcnt < 4#3
      · exact execEwrite_of_room herr hcl hroom ▸ respond_answers nofun
      · exact execEwrite_of_full herr hcl hroom ▸
          sinkTransfer_answers (fun _ => respond_answers nofun) fun _ _ => respond_answers nofun

theorem execEclose_not_illegal : Answers (· ≠ .illegal) s (execEclose s) := by
  cases herr : s.seb.errv with
  | true => exact execEclose_of_failed herr ▸ respond_answers nofun
  | false =>
    cases hcl : s.seb.closed with
    | true => exact execEclose_of_closed herr hcl ▸ respond_answers nofun
    | false =>
      by_cases hempty : s.seb.vcnt = 0
      · exact execEclose_of_empty herr hcl hempty ▸ respond_answers nofun
      · exact execEclose_of_pending herr hcl hempty ▸
          sinkTransfer_answers (fun _ => respond_answers nofun) fun _ _ => respond_answers nofun

theorem admitInput_not_illegal (consume : Sdb → Sdb) : Answers (· ≠ .illegal) s (admitInput consume s) := by
  obtain ⟨-, heq⟩ | ⟨-, -, heq⟩ | ⟨-, -, heq⟩ := admitInput_cases consume s
  · exact heq ▸ respond_answers nofun
  · exact heq ▸ respond_answers nofun
  · exact heq ▸ respond_answers nofun

theorem Sdb.emptyAnswer_ne_illegal (d : Sdb) : d.emptyAnswer.1 ≠ .illegal := by
  by_cases ht : d.dst = .term
  · cases hp : d.pst <;> simp [Sdb.emptyAnswer, ht, hp]
  · simp [Sdb.emptyAnswer, ht]

theorem execDread_not_illegal : Answers (· ≠ .illegal) s (execDread s) := by
  by_cases hq : s.sdb.qcnt = 0
  · exact execDread_of_empty hq ▸ respond_answers s.sdb.emptyAnswer_ne_illegal
  · exact execDread_of_queued hq ▸ respond_answers nofun

theorem exec_not_illegal {i : Instr} (h : i.wellFormed = true) : Answers (· ≠ .illegal) s (exec i s) := by
  cases i with
  | encq k => exact execEncq_not_illegal (of_decide_eq_true h)
  | decq j => exact execDecq_not_illegal (of_decide_eq_true h)
  | elen => exact respond_answers nofun
  | dlen => exact respond_answers nofun
  | ewrite b => exact execEwrite_not_illegal b
  | eclose => exact execEclose_not_illegal
  | erst => exact respond_answers nofun
  | estat => exact respond_answers nofun
  | dpush b => exact admitInput_not_illegal fun d => d.push b
  | dend => exact admitInput_not_illegal Sdb.endInput
  | dfail c => exact admitInput_not_illegal fun d => { d with scnt := 0, dst := .term, pst := .ioerr, perr := c }
  | dread => exact execDread_not_illegal
  | drst => exact respond_answers nofun
  | dstat => exact respond_answers nofun

end AnswersByCommand

theorem decode_of_selectWord {w : CmdWord} {i : Instr} (h : selectWord w = .run i) : decode w = .ok i := by
  unfold selectWord at h
  split at h
  · rename_i hdec
    cases h
    exact hdec
  · cases h

/-- A command that waits is an EWRITE or an ECLOSE, and the decoder gives well-formed commands only. -/
theorem select_wellFormed {s : State} {i : Instr} (hwait : s.WaitOk) (hsel : s.select = .run i) :
    i.wellFormed = true := by
  obtain ⟨-, heq⟩ | ⟨w, -, hw, heq⟩ | ⟨w, -, -, -, heq⟩ | ⟨-, -, -, heq⟩ := select_cases s
  · cases heq.symm.trans hsel
  · cases heq.symm.trans hsel
    obtain ⟨-, -, ⟨b, hcmd, -⟩ | ⟨hcmd, -⟩⟩ := transferOf_some (hwait w hw)
    · rw [hcmd]; rfl
    · rw [hcmd]; rfl
  · exact (encodeOfDecode w i (decode_of_selectWord (heq.symm.trans hsel))).2
  · cases heq.symm.trans hsel

/-- A step with its input on the pins answers at most once; if a waiting command waits for a transfer it makes, the
answer is ILLEGAL exactly when the step runs no command. -/
theorem stepInput_answers (s : State) :
    Answers (fun st => s.WaitOk → (s.select.command = none ↔ st = .illegal)) s (stepInput s) := by
  unfold stepInput
  cases hsel : s.select with
  | reset => exact answers_of_silent rfl
  | run i =>
    cases hwf : i.wellFormed with
    | true => exact (exec_not_illegal hwf).mono fun st hst _ => by simp [Selected.command, hst]
    | false =>
      simp only [exec_of_not_wellFormed s hwf]
      exact respond_answers fun hwait => absurd (select_wellFormed hwait hsel) (by simp [hwf])
  | illegal => exact respond_answers fun _ => by simp [Selected.command]
  | idle => exact answers_of_silent rfl

/-- A step adds the response of its exchange, if it has one. -/
theorem step_exchange {s t : State} (h : step s = .next t) :
    ∃ exchange : Option Exchange, exchangeOf s t = exchange.toList ∧
      t.responses = s.responses ++ exchange.toList.map Exchange.response ∧
      ∀ e ∈ exchange, s.WaitOk → (e.cmd = none ↔ e.response.rsp = .illegal) := by
  cases hscript : s.script with
  | nil =>
    cases (step_of_empty hscript).symm.trans h
    exact ⟨none, by simp [exchangeOf, State.takeInput, hscript], by simp, nofun⟩
  | cons p rest =>
    obtain ⟨u, answer, hnext, hresp, hlegal⟩ := stepInput_answers { s with now := p, script := rest }
    cases (step_of_input hscript ▸ h).symm.trans hnext
    refine ⟨answer.map _, (exchangeOf_of_input hscript hresp).trans (Option.toList_map ..).symm, ?_, ?_⟩
    · rw [hresp]; cases answer <;> rfl
    · intro e he hwait
      obtain ⟨r, hr, rfl⟩ := Option.mem_map.mp he
      exact hlegal r hr hwait

/-- Settles O49: along a run each step adds the response of its exchange. -/
theorem exchangesAreTheResponses : Obligations.ExchangesAreTheResponses := by
  refine ⟨fun n => ?_, fun s t h => ?_, fun s t hinv h e he => ?_⟩
  · induction n with
    | zero => rintro s t ⟨⟩; simp
    | succ n ih =>
      intro s t h
      obtain ⟨u, hstep, hrun⟩ := runSteps_succ_next h
      obtain ⟨exchange, hex, hresp, -⟩ := step_exchange hstep
      rw [exchanges_succ hstep, ih u t hrun, hresp, hex, List.map_append, List.append_assoc]
  · obtain ⟨exchange, hex, -, -⟩ := step_exchange h
    rw [hex]
    exact Option.length_toList_le
  · obtain ⟨-, -, hwait⟩ := hinv
    obtain ⟨exchange, hex, -, hlegal⟩ := step_exchange h
    exact hlegal e (Option.mem_toList.mp (hex ▸ he)) hwait

end Sys2Proof.Machine

namespace Sys2Proof.Machine

/-! ## Entries, lanes and frames as numbers (00_scope.md R10, R13) -/

theorem toNat_append_eq_add {m n : Nat} (a : BitVec m) (b : BitVec n) :
    (a ++ b).toNat = a.toNat * 2 ^ n + b.toNat := by
  rw [BitVec.toNat_append, ← Nat.shiftLeft_add_eq_or_of_lt b.isLt, Nat.shiftLeft_eq]

section Entries
variable {n : Nat} (l : List (BitVec n)) (i : Nat)

theorem entryNat_lt : entryNat l i < 2 ^ n := (l.getD i 0).isLt

/-- The bounds of the first eight entries, in the form omega reads. -/
theorem entriesNat_lt :
    entryNat l 0 < 2 ^ n ∧ entryNat l 1 < 2 ^ n ∧ entryNat l 2 < 2 ^ n ∧ entryNat l 3 < 2 ^ n ∧
      entryNat l 4 < 2 ^ n ∧ entryNat l 5 < 2 ^ n ∧ entryNat l 6 < 2 ^ n ∧ entryNat l 7 < 2 ^ n :=
  ⟨entryNat_lt l 0, entryNat_lt l 1, entryNat_lt l 2, entryNat_lt l 3, entryNat_lt l 4, entryNat_lt l 5,
    entryNat_lt l 6, entryNat_lt l 7⟩

theorem entryNat_of_le (h : l.length ≤ i) : entryNat l i = 0 := by
  rw [entryNat, List.getD_eq_default _ _ h]
  rfl

theorem entryNat_take (m : Nat) : entryNat (l.take m) i = if i < m then entryNat l i else 0 := by
  simp only [entryNat, List.getD_eq_getElem?_getD, List.getElem?_take]
  split <;> rfl

theorem entryNat_map_range (f : Nat → BitVec n) (m : Nat) :
    entryNat ((List.range m).map f) i = if i < m then (f i).toNat else 0 := by
  by_cases h : i < m
  · simp [entryNat, h]
  · rw [if_neg h, entryNat_of_le _ _ (by simpa using h)]

end Entries

/-- Numbers that agree with a list's entries are, cut off to 0 at its length, the entries themselves. -/
theorem entryNat_eq_ite {n : Nat} {l : List (BitVec n)} {v : Nat → Nat} (h : ∀ m < l.length, entryNat l m = v m) :
    (fun m => if m < l.length then v m else 0) = entryNat l := by
  funext m
  split
  next hm => exact (h m hm).symm
  next hm => exact (entryNat_of_le l m (Nat.not_lt.mp hm)).symm

theorem extractLsb'_toNat_eq_div_mod {n : Nat} (w : BitVec n) (start len : Nat) :
    (w.extractLsb' start len).toNat = w.toNat / 2 ^ start % 2 ^ len := by
  rw [BitVec.extractLsb'_toNat, Nat.shiftRight_eq_div_pow]

/-! The three layouts as numbers: the entries are the digits, the first one most significant. -/

theorem symbolsOnBus_toNat (l : List Byte) :
    (symbolsOnBus l).toNat =
      ((((((entryNat l 0 * 2 ^ 8 + entryNat l 1) * 2 ^ 8 + entryNat l 2) * 2 ^ 8 + entryNat l 3) * 2 ^ 8 +
        entryNat l 4) * 2 ^ 8 + entryNat l 5) * 2 ^ 8 + entryNat l 6) * 2 ^ 8 + entryNat l 7 := by
  simp only [symbolsOnBus, toNat_append_eq_add, entryNat]

theorem bytesOnFrame_toNat (l : List Byte) :
    (bytesOnFrame l).toNat =
      (((entryNat l 0 * 2 ^ 8 + entryNat l 1) * 2 ^ 8 + entryNat l 2) * 2 ^ 8 + entryNat l 3) * 2 ^ 8 +
        entryNat l 4 := by
  simp only [bytesOnFrame, toNat_append_eq_add, entryNat]

theorem frameOfValues_toNat (l : List Val5) :
    (frameOfValues l).toNat =
      ((((((entryNat l 0 * 2 ^ 5 + entryNat l 1) * 2 ^ 5 + entryNat l 2) * 2 ^ 5 + entryNat l 3) * 2 ^ 5 +
        entryNat l 4) * 2 ^ 5 + entryNat l 5) * 2 ^ 5 + entryNat l 6) * 2 ^ 5 + entryNat l 7 := by
  simp only [frameOfValues, toNat_append_eq_add, entryNat]

/-- A symbol list on the bus is read back lane by lane. -/
theorem laneNat_symbolsOnBus (l : List Byte) {i : Nat} (h : i < 8) : laneNat (symbolsOnBus l) i = entryNat l i := by
  have hlt := entriesNat_lt l
  rw [laneNat, symbolsOnBus_toNat]
  interval_cases i <;> omega

/-- A byte list on the frame is read back byte by byte. -/
theorem frameByte_bytesOnFrame (l : List Byte) {i : Nat} (h : i < 5) :
    (bytesOnFrame l).toNat / 2 ^ (32 - 8 * i) % 256 = entryNat l i := by
  have hlt := entriesNat_lt l
  rw [bytesOnFrame_toNat]
  interval_cases i <;> omega

theorem zextFrame_toNat (f : Frame) : (zextFrame f).toNat = f.toNat := BitVec.toNat_setWidth_of_le (by decide)

/-! ## Packing and unpacking, by the per-byte lines -/

/-- The fields of a frame of bytes are R106's lines. -/
theorem frameField_bytesOnFrame (l : List Byte) {i : Nat} (h : i < 8) :
    ((bytesOnFrame l).extractLsb' (35 - 5 * i) 5).toNat = fieldByLines (entryNat l) i := by
  have hlt := entriesNat_lt l
  rw [extractLsb'_toNat_eq_div_mod, bytesOnFrame_toNat]
  interval_cases i <;> simp only [fieldByLines] <;> omega

/-- The bytes of a frame of values are R109's lines. -/
theorem frameByte_frameOfValues (l : List Val5) {i : Nat} (h : i < 5) :
    ((frameOfValues l).extractLsb' (32 - 8 * i) 8).toNat = byteByLines (entryNat l) i := by
  have hlt := entriesNat_lt l
  rw [extractLsb'_toNat_eq_div_mod, frameOfValues_toNat]
  interval_cases i <;> simp only [byteByLines] <;> omega

/-- The symbols of a quantum on the bus are the ones of R106's lines (40_codec_core.md R106, R107). -/
theorem encodeQuantum_carriesSymbols {bs : List Byte} {b : Nat → Nat}
    (hb : ∀ m < bs.length, entryNat bs m = b m) : CarriesSymbols (symbolsOnBus (encodeQuantum bs)) bs.length b := by
  intro i hi
  rw [laneNat_symbolsOnBus _ hi, entryNat_eq_ite hb, encodeQuantum, entryNat_take, fieldsOfFrame, List.map_map,
    entryNat_map_range, if_pos hi, Function.comp_apply, ← frameField_bytesOnFrame bs hi, BitVec.ofNat_toNat,
    BitVec.setWidth_eq]
  rfl

/-- The bytes of a group are the ones of R109's lines (40_codec_core.md R109, R111). -/
theorem unpackGroup_carriesBytes {vs : List Val5} {v : Nat → Nat} (hv : ∀ m < vs.length, entryNat vs m = v m) :
    CarriesBytes (entryNat (unpackGroup vs)) vs.length v := by
  intro i hi
  rw [entryNat_eq_ite hv, unpackGroup, entryNat_take, bytesOfFrame, entryNat_map_range, if_pos hi,
    frameByte_frameOfValues vs hi]
  rfl

/-- The bytes of a group on the 40-bit field of RES (40_codec_core.md R112). -/
theorem zextFrame_carriesBytes {vs : List Val5} {v : Nat → Nat} (hv : ∀ m < vs.length, entryNat vs m = v m) :
    CarriesBytes (fun i => (zextFrame (bytesOnFrame (unpackGroup vs))).toNat / 2 ^ (32 - 8 * i) % 256) vs.length v := by
  intro i hi
  simp only [zextFrame_toNat, frameByte_bytesOnFrame _ hi]
  exact unpackGroup_carriesBytes hv i hi

/-! ## What ENCQ and DECQ read of OPND (30_encoding.md R72) -/

theorem operandBytes_eq {k : Nat} (w : Bus) (h : k ≤ 5) :
    operandBytes w k = (List.range k).map fun i => w.extractLsb' (32 - 8 * i) 8 := by
  rw [operandBytes, ← List.map_take, List.take_range, min_eq_left h]

theorem operandSymbols_eq {j : Nat} (w : Bus) (h : j ≤ 8) : operandSymbols w j = (List.range j).map (busLane w) := by
  rw [operandSymbols, ← List.map_take, List.take_range, min_eq_left h]

theorem busLane_eq (w : Bus) (i : Nat) : busLane w i = BitVec.ofNat 8 (laneNat w i) := by
  apply BitVec.eq_of_toNat_eq
  rw [busLane, extractLsb'_toNat_eq_div_mod, BitVec.toNat_ofNat, laneNat]
  exact (Nat.mod_mod _ 256).symm

theorem operandCount_eq (w : Bus) : operandCount w = w.toNat % 2 ^ 32 := by
  rw [operandCount, extractLsb'_toNat_eq_div_mod, pow_zero, Nat.div_one]

/-! ## The first invalid lane (40_codec_core.md R110) -/

theorem firstInvalidFrom_eq_findIdx? (n : Nat) (ss : List Byte) :
    firstInvalidFrom n ss = (ss.findIdx? fun b => decide (dt b = none)).map (· + n) := by
  induction ss generalizing n with
  | nil => rfl
  | cons b rest ih =>
    by_cases hb : dt b = none
    · simp [firstInvalidFrom, List.findIdx?_cons, hb]
    · simp [firstInvalidFrom, List.findIdx?_cons, hb, ih, Function.comp_def, Nat.add_comm, Nat.add_left_comm]

theorem firstInvalid_eq_some_iff {ss : List Byte} {i : Nat} :
    firstInvalid ss = some i ↔ ∃ h : i < ss.length, dt ss[i] = none ∧ ∀ m, ∀ hm : m < i, dt ss[m] ≠ none := by
  simp [firstInvalid, firstInvalidFrom_eq_findIdx?, List.findIdx?_eq_some_iff_getElem]

theorem firstInvalid_eq_none_iff {ss : List Byte} : firstInvalid ss = none ↔ ∀ b ∈ ss, dt b ≠ none := by
  simp [firstInvalid, firstInvalidFrom_eq_findIdx?]

/-- The first invalid lane of DECQ's operand, lane by lane. -/
theorem firstInvalid_operandSymbols_eq_some {n i : Nat} {w : Bus} (h : n ≤ 8) (hi : i < n)
    (hinvalid : dt (BitVec.ofNat 8 (laneNat w i)) = none)
    (hfirst : ∀ m < i, dt (BitVec.ofNat 8 (laneNat w m)) ≠ none) :
    firstInvalid (operandSymbols w n) = some i := by
  rw [operandSymbols_eq w h, firstInvalid_eq_some_iff]
  exact ⟨by simpa using hi, by simpa [busLane_eq] using hinvalid, fun m hm => by simpa [busLane_eq] using hfirst m hm⟩

/-- DECQ's operand when DT lists all its lanes. -/
theorem operandSymbols_of_valid {n : Nat} {w : Bus} {v : Nat → Val5} (h : n ≤ 8)
    (hv : ∀ i < n, dt (BitVec.ofNat 8 (laneNat w i)) = some (v i)) :
    firstInvalid (operandSymbols w n) = none ∧ valuesOf (operandSymbols w n) = (List.range n).map v := by
  have hdt : ∀ i ∈ List.range n, dt (busLane w i) = some (v i) := fun i hi =>
    busLane_eq w i ▸ hv i (List.mem_range.mp hi)
  rw [operandSymbols_eq w h]
  constructor
  · rw [firstInvalid_eq_none_iff]
    intro b hb
    obtain ⟨i, hi, rfl⟩ := List.mem_map.mp hb
    rw [hdt i hi]
    exact Option.some_ne_none _
  · rw [valuesOf, List.filterMap_map, List.filterMap_eq_map_iff_forall_eq_some]
    exact hdt

/-! ## The stateless commands: an equation per case -/

theorem encode_toNat (i : Instr) :
    (encode i).toNat = (opcodeOf i).toNat * 4096 + (argOf i).toNat * 256 + (dataOf i).toNat :=
  Laws.toNat_of_fields _ _ _

section CommandEquations
variable {k j : BitVec 4} {s : State}

theorem execEncq_of_le (h : k ≤ 5#4) :
    execEncq k s =
      respond .ok (symbolsOnBus (encodeQuantum (operandBytes s.now.opnd k.toNat)))
        (BitVec.ofNat 4 (encodedLength k.toNat)) s := if_pos h

theorem execDecq_of_invalid {i : Nat} (h : j ≤ 8#4)
    (hlane : firstInvalid (operandSymbols s.now.opnd j.toNat) = some i) :
    execDecq j s = respond .corrupt (BitVec.ofNat 64 i) 0 s := by
  simp only [execDecq, if_pos h, hlane, raise_eq_respond]

/-- A lone symbol is CORRUPT at lane 0, whether DT lists it or not (40_codec_core.md R112, R113). -/
theorem execDecq_of_lone : execDecq 1#4 s = respond .corrupt 0 0 s := by
  cases hlane : firstInvalid (operandSymbols s.now.opnd (1#4).toNat) with
  | none =>
    simp only [execDecq, hlane]
    rfl
  | some i =>
    obtain ⟨hi, -, -⟩ := firstInvalid_eq_some_iff.mp hlane
    obtain rfl : i = 0 := by simpa [operandSymbols_eq] using hi
    exact execDecq_of_invalid (by decide) hlane

theorem execDecq_of_valid (h : j ≤ 8#4) (h1 : j ≠ 1#4)
    (hlane : firstInvalid (operandSymbols s.now.opnd j.toNat) = none) :
    execDecq j s =
      respond .ok (zextFrame (bytesOnFrame (unpackGroup (valuesOf (operandSymbols s.now.opnd j.toNat)))))
        (BitVec.ofNat 4 (groupBytes j.toNat)) s := by
  simp only [execDecq, if_pos h, hlane, if_neg h1]

end CommandEquations

/-! ## The obligations about the ROMs and the stateless commands -/

/-- Settles O14: the quantum's symbols follow R106's lines, and the bytes of the quantum are those of OPND. -/
theorem encqAnswersSymbols : Obligations.EncqAnswersSymbols := by
  intro k s hk
  have hk5 : k.toNat ≤ 5 := hk
  have hbytes := operandBytes_eq s.now.opnd hk5
  have hlen : (operandBytes s.now.opnd k.toNat).length = k.toNat := by simp [hbytes]
  refine ⟨?_, _, execEncq_of_le hk, ?_⟩
  · simp [encode_toNat, opcodeOf, argOf, dataOf, Nat.mul_comm]
  · have hcarries := encodeQuantum_carriesSymbols (bs := operandBytes s.now.opnd k.toNat)
      (b := fun i => s.now.opnd.toNat / 2 ^ (32 - 8 * i) % 256) fun m hm => by
        rw [hbytes, entryNat_map_range, if_pos (hlen ▸ hm)]
        exact extractLsb'_toNat_eq_div_mod ..
    rwa [hlen] at hcarries

/-- Settles O15: lane by lane for an invalid operand, and by R109's lines for a valid one. -/
theorem decqAnswersBytesOrLane : Obligations.DecqAnswersBytesOrLane := by
  intro j s hj
  have hj8 : j.toNat ≤ 8 := hj
  refine ⟨?_, fun i hi hinvalid hfirst => ?_, ?_, fun h1 v hv => ?_⟩
  · simp [encode_toNat, opcodeOf, argOf, dataOf, Nat.mul_comm]
  · exact execDecq_of_invalid hj (firstInvalid_operandSymbols_eq_some hj8 hi hinvalid hfirst)
  · rintro rfl
    exact execDecq_of_lone
  · obtain ⟨hvalid, hvalues⟩ := operandSymbols_of_valid hj8 hv
    refine ⟨_, execDecq_of_valid hj h1 hvalid, ?_, ?_⟩
    · rw [zextFrame_toNat]
      exact (bytesOnFrame _).isLt
    · have hcarries := zextFrame_carriesBytes (vs := (List.range j.toNat).map v) (v := fun i => (v i).toNat)
        fun m hm => by rw [entryNat_map_range, if_pos (by simpa using hm)]
      rwa [List.length_map, List.length_range, ← hvalues] at hcarries

/-- Settles O12: the table evaluates to the string. -/
theorem alphabetIsTheString : Obligations.AlphabetIsTheString := rfl

/-- Settles O13: the writes of R103 leave in each of the 256 entries what R104's table lists. -/
theorem decodeTableEntries : Obligations.DecodeTableEntries := by
  rintro b n rfl
  revert b
  decide

/-- Settles O17: a 32-bit count's lengths fit the 64-bit bus. -/
theorem lengthsAreExact : Obligations.LengthsAreExact := by
  rintro s n rfl
  rw [← operandCount_eq]
  have hcount : operandCount s.now.opnd < 2 ^ 32 := (s.now.opnd.extractLsb' 0 32).isLt
  refine ⟨rfl, rfl, ⟨_, rfl, ?_⟩, ⟨_, rfl, ?_⟩⟩
  · rw [BitVec.toNat_ofNat, encodedLength, Nat.mod_eq_of_lt (by omega)]
  · rw [BitVec.toNat_ofNat, decodedLength, Nat.mod_eq_of_lt (by omega)]

end Sys2Proof.Machine

namespace Sys2Proof.Machine

/-! ## The encode buffer's transfers: what is offered, and how it is read back (41_stream_encoder.md R141) -/

theorem offerOf_len {syms : List Byte} (h : syms.length ≤ 8) : (offerOf syms).len.toNat = syms.length :=
  Nat.mod_eq_of_lt (by omega : syms.length < 2 ^ 4)

/-- The symbols of an offer are the ones it was made from. -/
theorem offerOf_symbols {syms : List Byte} (h : syms.length ≤ 8) : (offerOf syms).symbols = syms := by
  rw [Transfer.symbols, offerOf_len h, operandSymbols_eq _ h]
  refine List.ext_getElem (by simp) fun i _ hi => ?_
  rw [List.getElem_map, List.getElem_range, busLane_eq, offerOf, laneNat_symbolsOnBus syms (by omega), entryNat,
    List.getD_eq_getElem _ _ hi, BitVec.ofNat_toNat, BitVec.setWidth_eq]

/-- A quantum of up to 5 bytes has at most 8 symbols. -/
theorem encodeQuantum_length_le {bs : List Byte} (h : bs.length ≤ 5) : (encodeQuantum bs).length ≤ 8 := by
  rw [encodeQuantum_length h, encodedLength]
  omega

/-- With VCNT = 4 the pending bytes are all of ACC. -/
theorem Seb.pending_of_full {e : Seb} (h : e.vcnt = 4#3) : e.pending = e.acc.toList := by
  simp [Seb.pending, h]

/-- The transfer of a quantum that EWRITE completes: 8 symbols. -/
theorem offerOf_full_quantum {bs : List Byte} (h : bs.length = 5) :
    offerOf (encodeQuantum bs) = ⟨symbolsOnBus (encodeQuantum bs), 8⟩ := by
  rw [offerOf, encodeQuantum_length h.le, h]
  rfl

/-! ## The four commands of the encode buffer, case by case -/

/-- Settles O18: an equation per case; the four bytes of ACC and the new one are the quantum. -/
theorem ewriteEffect : Obligations.EwriteEffect := by
  intro b s
  refine ⟨?_, execEwrite_of_failed, execEwrite_of_closed, fun herr hcl hroom => ?_, fun herr hcl hfull => ?_⟩
  · simp [encode_toNat, opcodeOf, argOf, dataOf]
  · exact ⟨_, Vector.toList_setIfInBounds, execEwrite_of_room herr hcl hroom⟩
  · have hlen : (s.seb.acc.toList ++ [b]).length = 5 := by simp
    have hexec := execEwrite_of_full (b := b) herr hcl (by simp [hfull])
    rw [Seb.pending_of_full hfull] at hexec
    have hcarries := encodeQuantum_carriesSymbols (bs := s.seb.acc.toList ++ [b]) fun _ _ => rfl
    rw [hlen] at hcarries
    refine ⟨_, hcarries, fun hans => ?_, fun c hans => ?_, fun hans => ?_⟩ <;> rw [← offerOf_full_quantum hlen]
    · exact hexec.trans (sinkTransfer_of_accept hans)
    · exact hexec.trans (sinkTransfer_of_fail hans)
    · exact hexec.trans (sinkTransfer_of_unanswered hans)

/-- Settles O19: an equation per case; the pending bytes are the first VCNT of ACC. -/
theorem ecloseEffect : Obligations.EcloseEffect := by
  intro s
  refine ⟨rfl, execEclose_of_failed, execEclose_of_closed, execEclose_of_empty, fun herr hcl hpending hle => ?_⟩
  have hlen : s.seb.pending.length = s.seb.vcnt.toNat := Seb.pending_length hle
  have hshort : s.seb.pending.length ≤ 5 := by bv_omega
  have hexec := execEclose_of_pending herr hcl hpending
  have hcarries := encodeQuantum_carriesSymbols (bs := s.seb.pending) (b := entryNat s.seb.acc.toList) fun m hm =>
    (entryNat_take ..).trans (if_pos (hlen ▸ hm))
  have hsyms := offerOf_len (encodeQuantum_length_le hshort)
  rw [encodeQuantum_length hshort, encodedLength, hlen] at hsyms
  rw [hlen] at hcarries
  exact ⟨_, _, hcarries, hsyms, fun hans => hexec.trans (sinkTransfer_of_accept hans),
    fun c hans => hexec.trans (sinkTransfer_of_fail hans), fun hans => hexec.trans (sinkTransfer_of_unanswered hans)⟩

/-- Settles O21: ERST reads nothing. -/
theorem erstEffect : Obligations.ErstEffect := fun _ => ⟨rfl, rfl⟩

/-- ESR as a number, field by field (10_state.md R28). -/
theorem Seb.esr_toNat (e : Seb) :
    e.esr.toNat = e.vcnt.toNat + 2 ^ 3 * e.closed.toNat + 2 ^ 4 * e.errv.toNat + 2 ^ 8 * e.errc.toNat := by
  simp only [Seb.esr, toNat_append_eq_add, flagBit, BitVec.toNat_ofBool]
  simp only [BitVec.toNat_ofNat]
  omega

/-- Settles O22: the answer is ESR, and no register is written. -/
theorem estatReadsEsr : Obligations.EstatReadsEsr := fun s => ⟨rfl, _, rfl, s.seb.esr_toNat⟩

/-! ## A command that may make a transfer: it answers alone, or it is one transfer -/

/-- From these registers the command answers without a transfer, whatever the sink says. -/
def AnswersAlone (i : Instr) (e : Seb) : Prop :=
  ∃ e' st res rlen, ∀ s : State, s.seb = e → exec i s = respond st res rlen (s.withSeb e')

/-- From these registers the command makes one transfer and, when it is accepted, writes the registers `g` gives. -/
def MakesTransfer (i : Instr) (e : Seb) : Prop :=
  ∃ (syms : List Byte) (g : Seb → Seb), ∀ s : State, s.seb = e →
    exec i s = sinkTransfer i syms (fun t => respond .ok 0 0 (t.withSeb (g t.seb))) sinkFailed s

theorem ewrite_answersAlone_or_makesTransfer (b : Byte) (e : Seb) :
    AnswersAlone (.ewrite b) e ∨ MakesTransfer (.ewrite b) e := by
  cases herr : e.errv with
  | true => exact .inl ⟨e, _, zextByte e.errc, _, by rintro s rfl; exact execEwrite_of_failed herr⟩
  | false =>
    cases hcl : e.closed with
    | true => exact .inl ⟨e, _, _, _, by rintro s rfl; exact execEwrite_of_closed herr hcl⟩
    | false =>
      by_cases hroom : e.vcnt < 4#3
      · exact .inl ⟨e.absorb b, _, _, _, by rintro s rfl; exact execEwrite_of_room herr hcl hroom⟩
      · exact .inr ⟨encodeQuantum (e.pending ++ [b]), fun x => { x with vcnt := 0 },
          by rintro s rfl; exact execEwrite_of_full herr hcl hroom⟩

theorem eclose_answersAlone_or_makesTransfer (e : Seb) : AnswersAlone .eclose e ∨ MakesTransfer .eclose e := by
  cases herr : e.errv with
  | true => exact .inl ⟨e, _, zextByte e.errc, _, by rintro s rfl; exact execEclose_of_failed herr⟩
  | false =>
    cases hcl : e.closed with
    | true => exact .inl ⟨e, _, _, _, by rintro s rfl; exact execEclose_of_closed herr hcl⟩
    | false =>
      by_cases hempty : e.vcnt = 0
      · exact .inl ⟨{ e with closed := true }, _, _, _, by rintro s rfl; exact execEclose_of_empty herr hcl hempty⟩
      · exact .inr ⟨encodeQuantum e.pending, fun x => { x with vcnt := 0, closed := true },
          by rintro s rfl; exact execEclose_of_pending herr hcl hempty⟩

theorem MayTransfer.answersAlone_or_makesTransfer {i : Instr} (hi : MayTransfer i) (e : Seb) :
    AnswersAlone i e ∨ MakesTransfer i e := by
  obtain rfl | ⟨b, rfl⟩ := hi
  · exact eclose_answersAlone_or_makesTransfer e
  · exact ewrite_answersAlone_or_makesTransfer b e

theorem MayTransfer.runsOnSeb {i : Instr} (hi : MayTransfer i) : RunsOnSeb i := by
  obtain rfl | ⟨b, rfl⟩ := hi
  · exact eclose_runsOnSeb
  · exact ewrite_runsOnSeb b

/-- Every command but EWRITE and ECLOSE leaves the transfers alone, and all of these but ERST the encode buffer too. -/
theorem exec_frame_of_not_mayTransfer {i : Instr} {s t : State} (hi : ¬ MayTransfer i) (h : exec i s = .next t) :
    t.transfers = s.transfers ∧ (i ≠ .erst → t.seb = s.seb) := by
  have hother : i.component ≠ .streamingEncodeBuffer → t.transfers = s.transfers ∧ (i ≠ .erst → t.seb = s.seb) := by
    intro hunit
    obtain ⟨hseb, htransfers, -⟩ := (unitsAreIndependent.1 i s t h).1 hunit
    exact ⟨htransfers, fun _ => hseb⟩
  cases i with
  | ewrite b => exact absurd (.inr ⟨b, rfl⟩) hi
  | eclose => exact absurd (.inl rfl) hi
  | erst => cases h; exact ⟨rfl, fun hne => absurd rfl hne⟩
  | estat => cases h; exact ⟨rfl, fun _ => rfl⟩
  | _ => exact hother nofun

/-! ## The sticky error (41_stream_encoder.md R142) -/

/-- A command whose transfer fails leaves the error recorded. -/
theorem exec_records_failure {i : Instr} {s t : State} {c : Byte} (hans : s.now.ans = some (.fail c))
    (h : exec i s = .next t) (hmade : t.transfers ≠ s.transfers) : t.seb.errv = true ∧ t.seb.errc = c := by
  by_cases hi : MayTransfer i
  · obtain ⟨e, st, res, rlen, heq⟩ | ⟨syms, g, heq⟩ := hi.answersAlone_or_makesTransfer s.seb
    · cases (heq s rfl).symm.trans h
      exact absurd rfl hmade
    · cases ((heq s rfl).trans (sinkTransfer_of_fail hans)).symm.trans h
      exact ⟨rfl, rfl⟩
  · exact absurd (exec_frame_of_not_mayTransfer hi h).1 hmade

/-- No command but ERST changes a failed encode buffer. -/
theorem exec_keeps_failed_seb {i : Instr} {s t : State} (hi : i ≠ .erst) (herr : s.seb.errv = true)
    (h : exec i s = .next t) : t.seb = s.seb := by
  by_cases hmay : MayTransfer i
  · obtain rfl | ⟨b, rfl⟩ := hmay
    · cases (execEclose_of_failed herr).symm.trans h
      rfl
    · cases (execEwrite_of_failed herr).symm.trans h
      rfl
  · exact (exec_frame_of_not_mayTransfer hmay h).2 hi

/-- No step but a reset and ERST changes a failed encode buffer. -/
theorem step_keeps_failed_seb {s t : State} (hnext : s.nextIsNot .erst) (herr : s.seb.errv = true)
    (h : step s = .next t) : t.seb = s.seb := by
  cases hscript : s.script with
  | nil =>
    cases (step_of_empty hscript).symm.trans h
    rfl
  | cons p rest =>
    obtain ⟨hreset, herst⟩ := hnext { s with now := p, script := rest } (by simp only [State.takeInput, hscript])
    rw [step_of_input hscript, stepInput] at h
    cases hsel : State.select { s with now := p, script := rest } with
    | reset => exact absurd hsel hreset
    | run i =>
      rw [hsel] at h herst
      exact exec_keeps_failed_seb (s := { s with now := p, script := rest }) (fun hi => herst (hi ▸ rfl)) herr h
    | illegal =>
      rw [hsel] at h
      cases h
      rfl
    | idle =>
      rw [hsel] at h
      cases h
      rfl

/-- Settles O20: a failed transfer records the error, and from then on the encode buffer does not change. -/
theorem sinkFailureIsSticky : Obligations.SinkFailureIsSticky := by
  refine ⟨fun i s t c _ hans h hmade => exec_records_failure hans h hmade, fun s herr => ?_⟩
  refine ⟨fun b => execEwrite_of_failed herr, execEclose_of_failed herr, ⟨_, rfl⟩, fun t hnext hstep => ?_⟩
  rw [step_keeps_failed_seb hnext herr hstep]
  exact ⟨herr, rfl⟩

/-! ## A command and its sink's answer, however late, is one run of the command (20_memory.md R55) -/

/-- `s` once the record `p` is on the pins, with `rest` still to come. -/
def State.taking (s : State) (p : PortInput) (rest : List PortInput) : State := { s with now := p, script := rest }

/-- Nothing happens in `s` while the pins are idle. -/
def State.Quiet (s : State) : Prop :=
  ∀ rest, stepInput (s.taking PortInput.idle rest) = .next (s.taking PortInput.idle rest)

/-- With no command waiting and none presented, the sink's answer is ignored (log 18). -/
theorem stepInput_of_idle {s : State} (hrst : s.now.rst = false) (hwait : s.waiting = none) (hcmd : s.now.cmd = none) :
    stepInput s = .next s := by
  have hsel : s.select = .idle := by simp [State.select, hrst, hwait, hcmd]
  rw [stepInput, hsel]

theorem stepInput_of_waiting {s : State} {w : Waiting} (hrst : s.now.rst = false) (hwait : s.waiting = some w) :
    stepInput s = exec w.cmd s := by
  have hsel : s.select = .run w.cmd := by simp [State.select, hrst, hwait]
  rw [stepInput, hsel]

theorem runSteps_one (s : State) : runSteps 1 s = step s := by
  cases h : step s <;> simp [runSteps, h]

/-- The idle records before `p` pass over a quiet state. -/
theorem runSteps_of_quiet {s : State} (hquiet : s.Quiet) {n : Nat} {p : PortInput} {rest : List PortInput}
    (h : s.script = List.replicate n PortInput.idle ++ p :: rest) :
    runSteps (n + 1) s = stepInput (s.taking p rest) := by
  induction n generalizing s with
  | zero => exact (runSteps_one s).trans (step_of_input h)
  | succ n ih =>
    rw [List.replicate_succ, List.cons_append] at h
    have hstep := (step_of_input h).trans (hquiet _)
    exact (runSteps_succ hstep).trans (ih (s := s.taking PortInput.idle _) hquiet rfl)

/-- The record that issues a command, taken while none waits, executes it. -/
theorem step_of_issued {i : Instr} {s : State} {opnd : Bus} {ans : Option SinkAnswer} {rest : List PortInput}
    (hwf : i.wellFormed = true) (hwait : s.waiting = none) (h : s.script = inputOf i opnd ans :: rest) :
    step s = exec i (s.taking (inputOf i opnd ans) rest) :=
  stepRunsDecodedCommand s _ _ _ i h rfl hwait rfl (decodeOfEncode i hwf)

theorem MayTransfer.wellFormed {i : Instr} (hi : MayTransfer i) : i.wellFormed = true := by
  obtain rfl | ⟨b, rfl⟩ := hi <;> rfl

theorem commandRecords_length (i : Instr) (d : SinkDelay) : (commandRecords i d).length = d.waits + 1 := by
  obtain ⟨_ | n, a⟩ := d <;> simp [commandRecords]

/-- Issued without an answer, and answered at `p` after some idle steps, a command ends as if answered at once. -/
theorem runSteps_of_late_answer {i : Instr} (hi : MayTransfer i) {s : State} {n : Nat} {a : SinkAnswer} {p : PortInput}
    {rest : List PortInput} (hrst : p.rst = false) (hcmd : p.cmd = none) (hans : p.ans = some a)
    (hwait : s.waiting = none)
    (hscript : s.script = inputOf i 0 none :: (List.replicate n PortInput.idle ++ p :: rest)) :
    runSteps (n + 2) s = exec i (s.taking p rest) := by
  have hissued := step_of_issued hi.wellFormed hwait hscript
  obtain ⟨e, st, res, rlen, heq⟩ | ⟨syms, g, heq⟩ := hi.answersAlone_or_makesTransfer s.seb
  · rw [runSteps_succ (hissued.trans (heq _ rfl)),
      runSteps_of_quiet (fun _ => stepInput_of_idle rfl rfl rfl) rfl, stepInput_of_idle hrst rfl hcmd,
      heq (s.taking p rest) rfl]
    rfl
  · have hbegins : ∀ t : State, t.seb = s.seb → t.now.ans = none → exec i t = .next (t.await i (offerOf syms)) :=
      fun t ht hnone => (heq t ht).trans (sinkTransfer_of_unanswered hnone)
    rw [runSteps_succ (hissued.trans (hbegins _ rfl rfl)),
      runSteps_of_quiet (fun _ => by rw [stepInput_of_waiting rfl rfl]; exact hbegins _ rfl rfl) rfl,
      stepInput_of_waiting hrst rfl]
    exact hi.runsOnSeb.exec_withWaiting (s := s.taking p rest) hans _

/-- The records of a command and of the sink's answer run the command once, with that answer on the pins. -/
theorem runSteps_commandRecords {i : Instr} (hi : MayTransfer i) {s : State} {d : SinkDelay} {rest : List PortInput}
    (hwait : s.waiting = none) (hscript : s.script = commandRecords i d ++ rest) :
    ∃ p, p.ans = some d.answer ∧ runSteps (commandRecords i d).length s = exec i (s.taking p rest) := by
  rw [commandRecords_length]
  obtain ⟨_ | n, a⟩ := d
  · exact ⟨_, rfl, (runSteps_one s).trans (step_of_issued hi.wellFormed hwait hscript)⟩
  · exact ⟨{ PortInput.idle with ans := some a }, rfl,
      runSteps_of_late_answer hi rfl rfl rfl hwait (by simpa [commandRecords] using hscript)⟩

/-! ## The quanta of a byte sequence (43_sequence_level.md R210) -/

/-- The bytes cut into quanta of 5, and what is left as a last, partial one. -/
def quantaOf : List Byte → List (List Byte)
  | b0 :: b1 :: b2 :: b3 :: b4 :: rest => [b0, b1, b2, b3, b4] :: quantaOf rest
  | [] => []
  | short => [short]

theorem quantaOf_of_short {bs : List Byte} (h : bs.length < 5) (hne : bs ≠ []) : quantaOf bs = [bs] := by
  match bs with
  | [_] | [_, _] | [_, _, _] | [_, _, _, _] => rfl

theorem encodeSeq_of_short {bs : List Byte} (h : bs.length < 5) : encodeSeq bs = encodeQuantum bs := by
  match bs with
  | [] | [_] | [_, _] | [_, _, _] | [_, _, _, _] => rfl

section FullQuantum
variable {q : List Byte} (h : q.length = 5) (bs : List Byte)
include h

theorem quantaOf_append : quantaOf (q ++ bs) = q :: quantaOf bs := by
  match q with
  | [_, _, _, _, _] => rfl

theorem encodeSeq_append : encodeSeq (q ++ bs) = encodeQuantum q ++ encodeSeq bs := by
  match q with
  | [_, _, _, _, _] => rfl

end FullQuantum

/-- Induction by quanta. -/
theorem quanta_induction {P : List Byte → Prop} (short : ∀ bs, bs.length < 5 → P bs)
    (full : ∀ q bs, q.length = 5 → P bs → P (q ++ bs)) (bs : List Byte) : P bs := by
  by_cases h : bs.length < 5
  · exact short bs h
  · have hrest := quanta_induction short full (bs.drop 5)
    simpa using full (bs.take 5) (bs.drop 5) (by simp; omega) hrest
termination_by bs.length
decreasing_by simp; omega

theorem encodeSeq_length (bs : List Byte) : (encodeSeq bs).length = encodedLength bs.length := by
  induction bs using quanta_induction with
  | short bs h => rw [encodeSeq_of_short h, encodeQuantum_length h.le]
  | full q bs h ih =>
    rw [encodeSeq_append h, List.length_append, List.length_append, encodeQuantum_length h.le, ih, h]
    simp only [encodedLength]
    omega

/-- The record of a quantum that the sink accepted. -/
def acceptedQuantum (q : List Byte) : TransferRecord := { offer := offerOf (encodeQuantum q), fate := .accepted }

section AcceptedQuantum
variable {q : List Byte} (h : q.length ≤ 5)
include h

theorem acceptedQuantum_len : (acceptedQuantum q).offer.len.toNat = encodedLength q.length := by
  rw [acceptedQuantum, offerOf_len (encodeQuantum_length_le h), encodeQuantum_length h]

theorem acceptedQuantum_taken : (acceptedQuantum q).taken = encodeQuantum q :=
  offerOf_symbols (encodeQuantum_length_le h)

end AcceptedQuantum

/-- The transfers that carry a byte sequence to the sink, each accepted. -/
def acceptedQuanta (bs : List Byte) : List TransferRecord := (quantaOf bs).map acceptedQuantum

theorem acceptedQuanta_nil : acceptedQuanta [] = [] := rfl

theorem acceptedQuanta_of_short {bs : List Byte} (h : bs.length < 5) (hne : bs ≠ []) :
    acceptedQuanta bs = [acceptedQuantum bs] := by
  rw [acceptedQuanta, quantaOf_of_short h hne, List.map_singleton]

theorem acceptedQuanta_append {q : List Byte} (h : q.length = 5) (bs : List Byte) :
    acceptedQuanta (q ++ bs) = acceptedQuantum q :: acceptedQuanta bs := by
  rw [acceptedQuanta, quantaOf_append h, List.map_cons, acceptedQuanta]

theorem acceptedQuanta_fate {bs : List Byte} {r : TransferRecord} (h : r ∈ acceptedQuanta bs) : r.fate = .accepted := by
  obtain ⟨q, -, rfl⟩ := List.mem_map.mp h
  rfl

/-- The lengths of the transfers of a byte sequence (41_stream_encoder.md R153). -/
theorem acceptedQuanta_lens (bs : List Byte) :
    (acceptedQuanta bs).map (fun r => r.offer.len.toNat) =
      List.replicate (bs.length / 5) 8 ++
        (if bs.length % 5 = 0 then [] else [(bs.length % 5 * 8 + 4) / 5]) := by
  induction bs using quanta_induction with
  | short bs h =>
    rw [Nat.div_eq_of_lt h, Nat.mod_eq_of_lt h]
    by_cases hne : bs = []
    · simp [hne, acceptedQuanta_nil]
    · simp [acceptedQuanta_of_short h hne, acceptedQuantum_len h.le, encodedLength, hne]
  | full q bs h ih =>
    have hdiv : (q ++ bs).length / 5 = bs.length / 5 + 1 := by simp [h]
    have hmod : (q ++ bs).length % 5 = bs.length % 5 := by simp [h]
    rw [acceptedQuanta_append h, List.map_cons, ih, acceptedQuantum_len h.le, h, hdiv, hmod, List.replicate_succ,
      List.cons_append]
    rfl

/-- The symbols of the transfers of a byte sequence are its encoding. -/
theorem acceptedQuanta_taken (bs : List Byte) : (acceptedQuanta bs).flatMap TransferRecord.taken = encodeSeq bs := by
  induction bs using quanta_induction with
  | short bs h =>
    by_cases hne : bs = []
    · rw [hne]; rfl
    · rw [acceptedQuanta_of_short h hne, List.flatMap_singleton, acceptedQuantum_taken h.le, encodeSeq_of_short h]
  | full q bs h ih =>
    rw [acceptedQuanta_append h, List.flatMap_cons, ih, acceptedQuantum_taken h.le, encodeSeq_append h]

/-! ## EWRITE and ECLOSE answered OK, by the pending bytes (41_stream_encoder.md R143, R147) -/

/-- The buffer is open, without a failure, and these bytes are pending. -/
structure Seb.Pending (e : Seb) (q : List Byte) : Prop where
  errv : e.errv = false
  closed : e.closed = false
  vcnt_le : e.vcnt ≤ 4#3
  pending_eq : e.pending = q

theorem Seb.reset_pending : Seb.reset.Pending [] := ⟨rfl, rfl, by decide, rfl⟩

theorem Seb.Pending.length_eq {e : Seb} {q : List Byte} (h : e.Pending q) : q.length = e.vcnt.toNat :=
  h.pending_eq ▸ Seb.pending_length h.vcnt_le

section AnsweredOk
variable {s t : State} {q : List Byte} {a : SinkAnswer}

/-- A command answered OK whose transfer the sink answered had it accepted. -/
theorem sinkTransfer_accepted_of_ok {i : Instr} {syms : List Byte} {g : Seb → Seb} (hans : s.now.ans = some a)
    (h : sinkTransfer i syms (fun t => respond .ok 0 0 (t.withSeb (g t.seb))) sinkFailed s = .next t)
    (hok : t.responses = s.responses ++ [okResponse]) :
    t.seb = g s.seb ∧ t.transfers = s.transfers ++ [⟨offerOf syms, .accepted⟩] := by
  cases a with
  | accept =>
    cases (sinkTransfer_of_accept hans).symm.trans h
    exact ⟨rfl, rfl⟩
  | fail c =>
    cases (sinkTransfer_of_fail hans).symm.trans h
    simp [okResponse] at hok

/-- EWRITE appends its byte to the pending ones, or completes a quantum with it and has it accepted. -/
theorem ewrite_of_ok {b : Byte} (hq : s.seb.Pending q) (hans : s.now.ans = some a)
    (h : exec (.ewrite b) s = .next t) (hok : t.responses = s.responses ++ [okResponse]) :
    (t.seb.Pending (q ++ [b]) ∧ t.transfers = s.transfers) ∨
    ((q ++ [b]).length = 5 ∧ t.seb.Pending [] ∧ t.transfers = s.transfers ++ [acceptedQuantum (q ++ [b])]) := by
  by_cases hroom : s.seb.vcnt < 4#3
  · cases (execEwrite_of_room hq.errv hq.closed hroom).symm.trans h
    refine .inl ⟨⟨hq.errv, hq.closed, ?_, ?_⟩, rfl⟩
    · show s.seb.vcnt + 1 ≤ 4#3
      bv_omega
    · show (s.seb.absorb b).pending = q ++ [b]
      rw [Seb.absorb_pending b hroom, hq.pending_eq]
  · have hfull : s.seb.vcnt = 4#3 := BitVec.le_antisymm hq.vcnt_le (BitVec.not_lt.mp hroom)
    obtain ⟨hseb, htransfers⟩ := sinkTransfer_accepted_of_ok (g := fun e => { e with vcnt := 0 }) hans
      ((execEwrite_of_full hq.errv hq.closed hroom).symm.trans h) hok
    refine .inr ⟨?_, ?_, ?_⟩
    · simp [hq.length_eq, hfull]
    · rw [hseb]
      exact ⟨hq.errv, hq.closed, by simp, by simp [Seb.pending]⟩
    · rw [htransfers, hq.pending_eq, acceptedQuantum]

/-- ECLOSE has the pending bytes accepted, as a partial quantum if there are any. -/
theorem eclose_of_ok (hq : s.seb.Pending q) (hans : s.now.ans = some a) (h : exec .eclose s = .next t)
    (hok : t.responses = s.responses ++ [okResponse]) : t.transfers = s.transfers ++ acceptedQuanta q := by
  have hlen := hq.length_eq
  have hle := hq.vcnt_le
  by_cases hempty : s.seb.vcnt = 0
  · obtain rfl : q = [] := List.eq_nil_of_length_eq_zero (by simp [hlen, hempty])
    cases (execEclose_of_empty hq.errv hq.closed hempty).symm.trans h
    exact (List.append_nil _).symm
  · obtain ⟨-, htransfers⟩ := sinkTransfer_accepted_of_ok (g := fun e => { e with vcnt := 0, closed := true }) hans
      ((execEclose_of_pending hq.errv hq.closed hempty).symm.trans h) hok
    have hne : q ≠ [] := by
      rintro rfl
      exact hempty (BitVec.eq_of_toNat_eq hlen.symm)
    rw [htransfers, hq.pending_eq, acceptedQuanta_of_short (by bv_omega) hne, acceptedQuantum]

end AnsweredOk

/-! ## A whole encode (41_stream_encoder.md R153) -/

/-- A run that answers a next state, cut in two. -/
theorem runSteps_add_next {m n : Nat} {s t : State} (h : runSteps (m + n) s = .next t) :
    ∃ u, runSteps m s = .next u ∧ runSteps n u = .next t := by
  induction m generalizing s with
  | zero => exact ⟨s, rfl, by simpa using h⟩
  | succ m ih =>
    rw [Nat.succ_add] at h
    obtain ⟨u, hstep, hrun⟩ := runSteps_succ_next h
    obtain ⟨v, hfirst, hsecond⟩ := ih hrun
    exact ⟨v, (runSteps_succ hstep).trans hfirst, hsecond⟩

/-- A run only adds responses. -/
theorem runSteps_responses {n : Nat} {s t : State} (h : runSteps n s = .next t) :
    ∃ more, t.responses = s.responses ++ more :=
  ⟨_, exchangesAreTheResponses.1 n s t h⟩

/-- With the sink's answer there, an SEB command ends, with one response, and takes no input record. -/
theorem RunsOnSeb.exec_of_answered {i : Instr} (hi : RunsOnSeb i) {s t : State} {a : SinkAnswer}
    (hans : s.now.ans = some a) (h : exec i s = .next t) :
    t.waiting = none ∧ t.script = s.script ∧ ∃ r, t.responses = s.responses ++ [r] := by
  obtain ⟨-, hnone, -⟩ | ⟨ts, e, st, res, rlen, heq⟩ := hi s.seb s.now.ans
  · cases hans.symm.trans hnone
  · cases (heq s ⟨rfl, rfl⟩).symm.trans h
    exact ⟨rfl, rfl, _, rfl⟩

/-- The first command of a run whose first response is OK: it was executed with its sink's answer on the pins and
answered OK, and the run goes on with the rest of the script. -/
theorem run_first_command {i : Instr} (hi : MayTransfer i) {d : SinkDelay} {rest : List PortInput} {s t : State}
    {more : List Response} (hwait : s.waiting = none) (hscript : s.script = commandRecords i d ++ rest)
    (hrun : runSteps s.script.length s = .next t) (hresp : t.responses = s.responses ++ okResponse :: more) :
    ∃ p u, p.ans = some d.answer ∧ exec i (s.taking p rest) = .next u ∧ u.responses = s.responses ++ [okResponse] ∧
      u.waiting = none ∧ u.script = rest ∧ runSteps u.script.length u = .next t := by
  rw [hscript, List.length_append] at hrun
  obtain ⟨u, hfirst, hlater⟩ := runSteps_add_next hrun
  obtain ⟨p, hans, hexec⟩ := runSteps_commandRecords hi hwait hscript
  rw [hexec] at hfirst
  obtain ⟨huwait, huscript, r, hr⟩ := hi.runsOnSeb.exec_of_answered hans hfirst
  replace hr : u.responses = s.responses ++ [r] := hr
  obtain ⟨later, hlaterResp⟩ := runSteps_responses hlater
  obtain rfl : r = okResponse := by
    simp only [hlaterResp, hr, List.append_assoc, List.singleton_append] at hresp
    exact (List.cons.inj (List.append_cancel_left hresp)).1
  exact ⟨p, u, hans, hfirst, hr, huwait, huscript, by rwa [huscript]⟩

theorem encodeScript_cons (w : Byte × SinkDelay) (writes : List (Byte × SinkDelay)) (atClose : SinkDelay) :
    encodeScript (w :: writes) atClose = commandRecords (.ewrite w.1) w.2 ++ encodeScript writes atClose := by
  rw [encodeScript, List.flatMap_cons, List.append_assoc, encodeScript]

/-- From a buffer with `q` pending, a whole encode answered OK carries `q` and the bytes written to the sink. -/
theorem encodeScript_transfers {writes : List (Byte × SinkDelay)} {atClose : SinkDelay} {s t : State} {q : List Byte}
    (hq : s.seb.Pending q) (hwait : s.waiting = none) (hscript : s.script = encodeScript writes atClose)
    (hrun : runSteps s.script.length s = .next t)
    (hresp : t.responses = s.responses ++ List.replicate (writes.length + 1) okResponse) :
    t.transfers = s.transfers ++ acceptedQuanta (q ++ writes.map Prod.fst) := by
  induction writes generalizing s q with
  | nil =>
    obtain ⟨p, u, hans, hexec, hok, -, hdone, hend⟩ :=
      run_first_command (.inl rfl) (rest := []) hwait (hscript.trans (List.append_nil _).symm) hrun hresp
    rw [hdone] at hend
    cases hend
    rw [List.map_nil, List.append_nil]
    exact eclose_of_ok (s := s.taking p []) hq hans hexec hok
  | cons w writes ih =>
    rw [encodeScript_cons] at hscript
    obtain ⟨p, u, hans, hexec, hok, huwait, huscript, hlater⟩ :=
      run_first_command (.inr ⟨w.1, rfl⟩) hwait hscript hrun hresp
    have hrest : t.responses = u.responses ++ List.replicate (writes.length + 1) okResponse := by
      rw [hresp, hok, List.append_assoc]
      rfl
    have hbytes : q ++ (w :: writes).map Prod.fst = (q ++ [w.1]) ++ writes.map Prod.fst := by simp
    rw [hbytes]
    obtain ⟨hpending, hsame⟩ | ⟨hfull, hpending, hadded⟩ := ewrite_of_ok (s := s.taking p _) hq hans hexec hok
    · rw [ih hpending huwait huscript hlater hrest, hsame]
      rfl
    · rw [ih hpending huwait huscript hlater hrest, hadded, acceptedQuanta_append hfull, List.append_assoc]
      rfl

/-- Settles O46: the transfers added are those of the bytes' quanta, each accepted. -/
theorem encodeBufferStreamsEncode : Obligations.EncodeBufferStreamsEncode := by
  rintro writes atClose s t n rfl hreset hwait hscript hrun hresp
  have hlens := acceptedQuanta_lens (writes.map Prod.fst)
  have hlength := encodeSeq_length (writes.map Prod.fst)
  rw [List.length_map] at hlens hlength
  exact ⟨acceptedQuanta (writes.map Prod.fst),
    encodeScript_transfers (hreset ▸ Seb.reset_pending) hwait hscript hrun hresp,
    fun r => acceptedQuanta_fate, hlens, acceptedQuanta_taken _, hlength⟩

end Sys2Proof.Machine

namespace Sys2Proof.Machine

/-! ## A group queued, by the per-byte lines (42_stream_decoder.md R177, 40_codec_core.md R109) -/

theorem entryNat_queueBytes (bs : List Byte) {i : Nat} (h : i < 5) :
    entryNat (queueBytes bs).toList i = entryNat bs i := by
  interval_cases i <;> rfl

/-- QBUF after a group has been queued carries the group's bytes. -/
theorem queueBytes_carriesBytes {vs : List Val5} {v : Nat → Nat} (hv : ∀ m < vs.length, entryNat vs m = v m) :
    CarriesBytes (entryNat (queueBytes (unpackGroup vs)).toList) vs.length v := by
  intro i hi
  rw [entryNat_queueBytes _ hi]
  exact unpackGroup_carriesBytes hv i hi

/-- The number of bytes of a group fits QCNT. -/
theorem groupBytes_toNat {n : Nat} (h : n ≤ 8) : (BitVec.ofNat 3 (groupBytes n)).toNat = 5 * n / 8 := by
  rw [BitVec.toNat_ofNat, groupBytes, Nat.mod_eq_of_lt (by omega)]

/-- With SCNT = 7 the current group is all of SACC. -/
theorem Sdb.group_of_full {d : Sdb} (h : d.scnt = 7#3) : d.group = d.sacc.toList := by
  simp [Sdb.group, h]

/-- The queue that the current group leaves has the bytes of `SACC[0..SCNT-1]`. -/
theorem Sdb.group_queued (d : Sdb) :
    (BitVec.ofNat 3 (groupBytes d.group.length)).toNat = 5 * d.scnt.toNat / 8 ∧
      CarriesBytes (entryNat (queueBytes (unpackGroup d.group)).toList) d.scnt.toNat (entryNat d.sacc.toList) := by
  have hlen := d.group_length
  have hcarries := queueBytes_carriesBytes (vs := d.group) (v := entryNat d.sacc.toList) fun m hm =>
    (entryNat_take ..).trans (if_pos (hlen ▸ hm))
  rw [groupBytes_toNat (by omega), hlen]
  exact ⟨rfl, hlen ▸ hcarries⟩

/-! ## Input admission, by the recorded terminal condition and the queue (42_stream_decoder.md R176) -/

theorem exec_dpush (b : Byte) (s : State) : exec (.dpush b) s = admitInput (fun d => d.push b) s := rfl

theorem exec_dend (s : State) : exec .dend s = admitInput Sdb.endInput s := rfl

/-- The registers after DFAIL has been admitted (42_stream_decoder.md R184). -/
def Sdb.fail (d : Sdb) (c : Byte) : Sdb := { d with scnt := 0, dst := .term, pst := .ioerr, perr := c }

theorem exec_dfail (c : Byte) (s : State) : exec (.dfail c) s = admitInput (fun d => d.fail c) s := rfl

section Admission
variable {i : Instr} {consume : Sdb → Sdb} {s : State} (hi : exec i s = admitInput consume s)
include hi

theorem exec_closed_of_term (h : s.sdb.dst = .term) : exec i s = .next (s.respond .closed 0 0) :=
  hi.trans (if_pos h)

theorem exec_busy_of_queued (h : s.sdb.dst ≠ .term) (hq : s.sdb.qcnt ≠ 0) :
    exec i s = .next (s.respond .busy 0 0) := hi.trans ((if_neg h).trans (if_pos hq))

/-- Input that is admitted leaves the registers that the command's own rule gives. -/
theorem exec_of_admitted {d : Sdb} (h : s.sdb.dst ≠ .term) (hq : s.sdb.qcnt = 0) (hd : consume s.sdb = d) :
    exec i s = .next ({ s with sdb := d }.respond .ok 0 0) := by
  rw [hi, ← hd]
  exact (if_neg h).trans (if_neg (not_not_intro hq))

end Admission

/-! ## DPUSH with the queue empty, case by case (42_stream_decoder.md R177) -/

/-- Padding is no symbol (40_codec_core.md R105). -/
theorem dt_padChar : dt Config.padChar = none := rfl

theorem ne_padChar_of_valid {b : Byte} {v : Val5} (h : dt b = some v) : b ≠ Config.padChar := by
  rintro rfl
  cases dt_padChar.symm.trans h

section PushByCase
variable {d : Sdb} {b : Byte} {v : Val5}

/-- Padding after no value only enters PAD. -/
theorem Sdb.push_padding_of_empty (hr : d.dst = .run) (hb : b = Config.padChar) (h : d.scnt = 0) :
    d.push b = { d with soff := d.soff + 1, dst := .pad } := by
  rw [Sdb.push_of_run hr, Sdb.pushRun_of_padding hb, Sdb.startPadding_of_not_lone (by simp [h]),
    Sdb.queueFinal_of_lt_two (by simp [h]), ← h]

/-- Padding after a lone value is Corrupt Input at the value's symbol. -/
theorem Sdb.push_padding_of_lone (hr : d.dst = .run) (hb : b = Config.padChar) (h : d.scnt = 1#3) :
    d.push b = { d with soff := d.soff + 1, dst := .term, pst := .corrupt, poff := d.soff - 1, scnt := 0 } := by
  rw [Sdb.push_of_run hr, Sdb.pushRun_of_padding hb]
  exact Sdb.startPadding_of_lone h

/-- Padding after two or more values queues them. -/
theorem Sdb.push_padding_of_two (hr : d.dst = .run) (hb : b = Config.padChar) (h : 2#3 ≤ d.scnt) :
    d.push b = { d.queueGroup d.group with soff := d.soff + 1, scnt := 0, dst := .pad } := by
  have hfinal : Sdb.queueFinal { d with soff := d.soff + 1 } = { d.queueGroup d.group with soff := d.soff + 1 } :=
    Sdb.queueFinal_of_two h
  rw [Sdb.push_of_run hr, Sdb.pushRun_of_padding hb, Sdb.startPadding_of_not_lone (by bv_omega), hfinal]

theorem Sdb.push_invalid (hr : d.dst = .run) (hb : b ≠ Config.padChar) (hv : dt b = none) :
    d.push b = { d with soff := d.soff + 1, dst := .term, pst := .corrupt, poff := d.soff, scnt := 0 } := by
  rw [Sdb.push_of_run hr, Sdb.pushRun_of_invalid hb hv]
  rfl

theorem Sdb.push_valid_of_room (hr : d.dst = .run) (hv : dt b = some v) (h : d.scnt < 7#3) :
    d.push b = { d with soff := d.soff + 1, sacc := d.sacc.setIfInBounds d.scnt.toNat v, scnt := d.scnt + 1 } := by
  rw [Sdb.push_of_run hr, Sdb.pushRun_of_valid (ne_padChar_of_valid hv) hv]
  exact Sdb.takeValue_of_room h

/-- The eighth value of a group queues it. -/
theorem Sdb.push_valid_of_full (hr : d.dst = .run) (hv : dt b = some v) (h : d.scnt = 7#3) :
    d.push b = { d.queueGroup (d.sacc.toList ++ [v]) with soff := d.soff + 1, scnt := 0 } := by
  rw [Sdb.push_of_run hr, Sdb.pushRun_of_valid (ne_padChar_of_valid hv) hv, Sdb.takeValue_of_full (by simp [h]),
    Sdb.group_of_full (d := { d with soff := d.soff + 1 }) h]
  rfl

theorem Sdb.push_padding_in_pad (hr : d.dst = .pad) (hb : b = Config.padChar) :
    d.push b = { d with soff := d.soff + 1 } := by
  rw [Sdb.push_of_not_run (by simp [hr]), Sdb.pushPad_of_padding hb]

theorem Sdb.push_other_in_pad (hr : d.dst = .pad) (hb : b ≠ Config.padChar) :
    d.push b = { d with soff := d.soff + 1, dst := .term, pst := .corrupt, poff := d.soff } := by
  rw [Sdb.push_of_not_run (by simp [hr]), Sdb.pushPad_of_other hb]
  rfl

end PushByCase

/-- Settles O24: an equation per case of an admitted byte; the queued bytes are those of the current group, or of SACC and
the new value. -/
theorem dpushEffect : Obligations.DpushEffect := by
  rintro b s d rfl
  refine ⟨?_, exec_closed_of_term (exec_dpush b s), exec_busy_of_queued (exec_dpush b s), fun hq => ?_⟩
  · simp [encode_toNat, opcodeOf, argOf, dataOf]
  have hrun {d'} (hr : s.sdb.dst = .run) := exec_of_admitted (d := d') (exec_dpush b s) (by simp [hr]) hq
  have hpad {d'} (hp : s.sdb.dst = .pad) := exec_of_admitted (d := d') (exec_dpush b s) (by simp [hp]) hq
  refine ⟨fun hr hb h => hrun hr (Sdb.push_padding_of_empty hr hb h),
    fun hr hb h => hrun hr (Sdb.push_padding_of_lone hr hb h), fun hr hb h => ?_,
    fun hr hb hv => hrun hr (Sdb.push_invalid hr hb hv), fun hr v hv h => ?_, fun hr v hv h => ?_,
    fun hr hb => hpad hr (Sdb.push_padding_in_pad hr hb), fun hr hb => hpad hr (Sdb.push_other_in_pad hr hb)⟩
  · obtain ⟨hcount, hcarries⟩ := s.sdb.group_queued
    exact ⟨_, _, hcount, hcarries, hrun hr (Sdb.push_padding_of_two hr hb h)⟩
  · exact ⟨_, Vector.toList_setIfInBounds, hrun hr (Sdb.push_valid_of_room hr hv h)⟩
  · have hlen : (s.sdb.sacc.toList ++ [v]).length = 8 := by simp
    have hcarries := queueBytes_carriesBytes (vs := s.sdb.sacc.toList ++ [v]) fun _ _ => rfl
    have hpush := Sdb.push_valid_of_full hr hv h
    rw [hlen] at hcarries
    rw [Sdb.queueGroup, hlen] at hpush
    exact ⟨_, hcarries, hrun hr hpush⟩

/-! ## DEND with the queue empty, case by case (42_stream_decoder.md R182) -/

section EndInputByCase
variable {d : Sdb}

theorem Sdb.endInput_of_empty (hr : d.dst = .run) (h : d.scnt = 0) :
    d.endInput = { d with dst := .term, pst := .eof } := by
  rw [Sdb.endInput_of_run hr (by simp [h]), Sdb.queueFinal_of_lt_two (by simp [h]), ← h]

/-- Two or more values are a final group, which is queued. -/
theorem Sdb.endInput_of_two (hr : d.dst = .run) (h : 2#3 ≤ d.scnt) :
    d.endInput = { d.queueGroup d.group with scnt := 0, dst := .term, pst := .eof } := by
  rw [Sdb.endInput_of_run hr (by bv_omega), Sdb.queueFinal_of_two h]

/-- DEND always records a terminal condition. -/
theorem Sdb.endInput_dst : d.endInput.dst = .term := by
  by_cases hr : d.dst = .run
  · by_cases h1 : d.scnt = 1#3
    · rw [Sdb.endInput_of_lone ⟨hr, h1⟩, Sdb.corruptAt_dst]
    · rw [Sdb.endInput_of_run hr h1]
  · rw [Sdb.endInput_of_not_run hr]

end EndInputByCase

/-- Settles O25: an equation per case of an admitted end; the queued bytes are those of the current group. -/
theorem dendEffect : Obligations.DendEffect := by
  rintro s d rfl
  refine ⟨rfl, exec_closed_of_term (exec_dend s), exec_busy_of_queued (exec_dend s), fun hq => ?_⟩
  have hrun {d'} (hr : s.sdb.dst = .run) := exec_of_admitted (d := d') (exec_dend s) (by simp [hr]) hq
  refine ⟨fun hr h => hrun hr (Sdb.endInput_of_empty hr h), fun hr h => hrun hr (Sdb.endInput_of_lone ⟨hr, h⟩),
    fun hr h => ?_, fun hp => ?_⟩
  · obtain ⟨hcount, hcarries⟩ := s.sdb.group_queued
    exact ⟨_, _, hcount, hcarries, hrun hr (Sdb.endInput_of_two hr h)⟩
  · exact exec_of_admitted (exec_dend s) (by simp [hp]) hq (Sdb.endInput_of_not_run (by simp [hp]))

/-- Settles O26: once admitted, DFAIL does not look at the state machine. -/
theorem dfailEffect : Obligations.DfailEffect := by
  intro c s
  refine ⟨?_, exec_closed_of_term (exec_dfail c s), exec_busy_of_queued (exec_dfail c s),
    fun h hq => exec_of_admitted (exec_dfail c s) h hq rfl⟩
  simp [encode_toNat, opcodeOf, argOf, dataOf]

/-! ## Admitted input always changes a register (42_stream_decoder.md R172, R176) -/

section PushCounts
variable {d : Sdb}

@[simp] theorem Sdb.queueFinal_soff : d.queueFinal.soff = d.soff := by
  by_cases h : 2#3 ≤ d.scnt
  · rw [Sdb.queueFinal_of_two h, Sdb.queueGroup_soff]
  · rw [Sdb.queueFinal_of_lt_two h]

@[simp] theorem Sdb.startPadding_soff (off : Offset) : (d.startPadding off).soff = d.soff := by
  by_cases h : d.scnt = 1#3
  · rw [Sdb.startPadding_of_lone h, Sdb.corruptAt_soff]
  · rw [Sdb.startPadding_of_not_lone h, Sdb.queueFinal_soff]

@[simp] theorem Sdb.takeValue_soff (v : Val5) : (d.takeValue v).soff = d.soff := by
  by_cases h : d.scnt < 7#3
  · rw [Sdb.takeValue_of_room h]
  · rw [Sdb.takeValue_of_full h, Sdb.queueGroup_soff]

@[simp] theorem Sdb.pushRun_soff (b : Byte) (off : Offset) : (d.pushRun b off).soff = d.soff := by
  by_cases hb : b = Config.padChar
  · rw [Sdb.pushRun_of_padding hb, Sdb.startPadding_soff]
  · cases hv : dt b with
    | none => rw [Sdb.pushRun_of_invalid hb hv, Sdb.corruptAt_soff]
    | some v => rw [Sdb.pushRun_of_valid hb hv, Sdb.takeValue_soff]

@[simp] theorem Sdb.pushPad_soff (b : Byte) (off : Offset) : (d.pushPad b off).soff = d.soff := by
  by_cases hb : b = Config.padChar
  · rw [Sdb.pushPad_of_padding hb]
  · rw [Sdb.pushPad_of_other hb, Sdb.corruptAt_soff]

/-- Every byte delivered is counted (R172). -/
@[simp] theorem Sdb.push_soff (b : Byte) : (d.push b).soff = d.soff + 1 := by
  by_cases hr : d.dst = .run
  · rw [Sdb.push_of_run hr, Sdb.pushRun_soff]
  · rw [Sdb.push_of_not_run hr, Sdb.pushPad_soff]

end PushCounts

/-- The admission of a command whose rule, once it is admitted, changes a register. -/
theorem exec_admission {i : Instr} {consume : Sdb → Sdb} {s : State} (hi : exec i s = admitInput consume s)
    (hchanges : s.sdb.dst ≠ .term → consume s.sdb ≠ s.sdb) :
    (s.sdb.dst = .term → exec i s = .next (s.respond .closed 0 0)) ∧
    (s.sdb.dst ≠ .term → s.sdb.qcnt ≠ 0 → exec i s = .next (s.respond .busy 0 0)) ∧
    (s.sdb.dst ≠ .term → s.sdb.qcnt = 0 →
      ∃ d : Sdb, d ≠ s.sdb ∧ exec i s = .next ({ s with sdb := d }.respond .ok 0 0)) :=
  ⟨exec_closed_of_term hi, exec_busy_of_queued hi, fun h hq => ⟨_, hchanges h, exec_of_admitted hi h hq rfl⟩⟩

/-- A rule that records a terminal condition changes DST, unless one is recorded. -/
theorem ne_of_dst_eq_term {d e : Sdb} (he : e.dst = .term) (h : d.dst ≠ .term) : e ≠ d :=
  fun heq => h (heq ▸ he)

/-- Settles O23: DPUSH changes SOFF; DEND and DFAIL change DST. -/
theorem inputAdmission : Obligations.InputAdmission := by
  rintro _ s (⟨b, rfl⟩ | rfl | ⟨c, rfl⟩)
  · refine exec_admission (exec_dpush b s) fun _ heq => ?_
    have hsoff := congrArg Sdb.soff heq
    rw [Sdb.push_soff] at hsoff
    bv_omega
  · exact exec_admission (exec_dend s) (ne_of_dst_eq_term Sdb.endInput_dst)
  · exact exec_admission (exec_dfail c s) (ne_of_dst_eq_term rfl)

/-! ## DREAD, and a queue drained by it (42_stream_decoder.md R186) -/

/-- A queued byte lies in QBUF (10_state.md R31). -/
theorem Sdb.qbuf_getElem?_qidx {d : Sdb} (h : d.Inv) (hq : d.qcnt ≠ 0) :
    d.qbuf.toList[d.qidx.toNat]? = some d.head := by
  obtain ⟨-, -, hbound⟩ := h
  have hpos : d.qcnt.toNat ≠ 0 := fun h0 => hq (BitVec.eq_of_toNat_eq h0)
  have hlt : d.qidx.toNat < d.qbuf.toList.length := by rw [Vector.length_toList]; omega
  rw [Sdb.head, List.getD_eq_getElem _ _ hlt, List.getElem?_eq_getElem hlt]

/-! What DREAD answers with no byte queued: AGAIN, or by the terminal condition recorded. -/

section EmptyAnswer
variable {d : Sdb}

theorem Sdb.emptyAnswer_of_not_term (h : d.dst ≠ .term) : d.emptyAnswer = (.again, 0) := if_pos h

theorem Sdb.emptyAnswer_of_eof (h : d.dst = .term) (hp : d.pst = .eof) : d.emptyAnswer = (.eof, 0) := by
  simp [Sdb.emptyAnswer, h, hp]

theorem Sdb.emptyAnswer_of_corrupt (h : d.dst = .term) (hp : d.pst = .corrupt) :
    d.emptyAnswer = (.corrupt, d.poff) := by simp [Sdb.emptyAnswer, h, hp]

theorem Sdb.emptyAnswer_of_ioerr (h : d.dst = .term) (hp : d.pst = .ioerr) :
    d.emptyAnswer = (.ioerr, zextByte d.perr) := by simp [Sdb.emptyAnswer, h, hp]

end EmptyAnswer

/-- Settles O27: a queued byte is the head of the queue; without one, the answer is the empty queue's. -/
theorem dreadEffect : Obligations.DreadEffect := by
  intro s hd
  have hempty {st : Status} {res : Bus} (hq : s.sdb.qcnt = 0) (hanswer : s.sdb.emptyAnswer = (st, res)) :
      exec .dread s = .next (s.respond st res 0) := by
    have hexec := execDread_of_empty hq
    rwa [hanswer] at hexec
  exact ⟨rfl, fun hq => ⟨_, Sdb.qbuf_getElem?_qidx hd hq, execDread_of_queued hq⟩,
    fun hq h => hempty hq (Sdb.emptyAnswer_of_not_term h),
    fun hq h hp => hempty hq (Sdb.emptyAnswer_of_eof h hp),
    fun hq h hp => hempty hq (Sdb.emptyAnswer_of_corrupt h hp),
    fun hq h hp => hempty hq (Sdb.emptyAnswer_of_ioerr h hp)⟩

/-- The registers after every queued byte has been delivered. -/
def Sdb.drained (d : Sdb) : Sdb := { d with qidx := d.qidx + d.qcnt, qcnt := 0 }

@[simp] theorem Sdb.drained_qcnt (d : Sdb) : d.drained.qcnt = 0 := rfl
@[simp] theorem Sdb.drained_dst (d : Sdb) : d.drained.dst = d.dst := rfl
@[simp] theorem Sdb.drained_pst (d : Sdb) : d.drained.pst = d.pst := rfl

theorem Sdb.drained_of_empty {d : Sdb} (h : d.qcnt = 0) : d.drained = d := by
  have hidx : d.qidx + d.qcnt = d.qidx := by rw [h, add_zero]
  rw [Sdb.drained, hidx, ← h]

theorem Sdb.dequeue_drained (d : Sdb) : d.dequeue.drained = d.drained := by
  have hidx : d.qidx + 1 + (d.qcnt - 1) = d.qidx + d.qcnt := by ring
  simp only [Sdb.dequeue, Sdb.drained, hidx]

theorem Sdb.queued_of_empty {d : Sdb} (h : d.qcnt = 0) : d.queued = [] := by
  simp [Sdb.queued, h]

/-- The answer of DREAD that delivers a byte. -/
def readResponse (x : Byte) : Response := ⟨.ok, x.setWidth 64, 1⟩

/-- QCNT DREADs, issued with no command waiting, deliver the queue in order and leave it drained. -/
theorem runSteps_drain {n : Nat} {s : State} {rest : List PortInput} (hd : s.sdb.Inv) (hwait : s.waiting = none)
    (hn : s.sdb.qcnt.toNat = n) (hscript : s.script = List.replicate n (inputOf .dread 0 none) ++ rest) :
    ∃ t, runSteps n s = .next t ∧ t.sdb = s.sdb.drained ∧ t.seb = s.seb ∧ t.waiting = none ∧ t.script = rest ∧
      t.responses = s.responses ++ s.sdb.queued.map readResponse := by
  induction n generalizing s with
  | zero =>
    have hq : s.sdb.qcnt = 0 := BitVec.eq_of_toNat_eq hn
    exact ⟨s, rfl, (Sdb.drained_of_empty hq).symm, rfl, hwait, hscript, by simp [Sdb.queued_of_empty hq]⟩
  | succ n ih =>
    have hq : s.sdb.qcnt ≠ 0 := fun h0 => by simp [h0] at hn
    have hcount : s.sdb.dequeue.qcnt.toNat = n := by
      show (s.sdb.qcnt - 1).toNat = n
      bv_omega
    have hstep := (step_of_issued rfl hwait hscript).trans (execDread_of_queued (s := s.taking _ _) hq)
    obtain ⟨t, hrun, hsdb, hseb, htwait, htscript, hresp⟩ :=
      ih (s := ((s.taking _ _).withSdb s.sdb.dequeue).respond .ok (zextByte s.sdb.head) 1)
        (Sdb.dequeue_inv hd hq) rfl hcount rfl
    refine ⟨t, (runSteps_succ hstep).trans hrun, hsdb.trans s.sdb.dequeue_drained, hseb, htwait, htscript, ?_⟩
    rw [hresp, Sdb.queued_eq_head_cons hd hq, List.map_cons]
    exact List.append_assoc ..

/-- Settles O30: QIDX + QCNT is at most 5, and QCNT DREADs drain the queue. -/
theorem queueDrainsInOrder : Obligations.QueueDrainsInOrder := by
  rintro s n ⟨-, hd, -⟩ hwait rfl hscript
  obtain ⟨t, hrun, hsdb, hseb, -, -, hresp⟩ :=
    runSteps_drain hd hwait rfl (hscript.trans (List.append_nil _).symm)
  refine ⟨?_, t, hrun, by simp [hsdb], hresp, hseb, by simp [hsdb], by simp [hsdb]⟩
  obtain ⟨-, -, hbound⟩ := hd
  omega

/-! ## DRST and DSTAT (42_stream_decoder.md R189, R190) -/

/-- Settles O28: DRST reads nothing. -/
theorem drstEffect : Obligations.DrstEffect := fun _ => ⟨rfl, rfl⟩

/-- DSR as a number, field by field (10_state.md R32). -/
theorem Sdb.dsr_toNat (d : Sdb) :
    d.dsr.toNat = d.dst.code.toNat + 2 ^ 2 * d.scnt.toNat + 2 ^ 5 * d.qcnt.toNat + 2 ^ 8 * d.pst.code.toNat +
      2 ^ 16 * d.perr.toNat := by
  simp only [Sdb.dsr, toNat_append_eq_add]
  simp only [BitVec.toNat_ofNat]
  omega

/-- Settles O29: the answer is DSR, and no register is written. -/
theorem dstatReadsDsr : Obligations.DstatReadsDsr := fun s => ⟨rfl, _, rfl, s.sdb.dsr_toNat⟩

end Sys2Proof.Machine

namespace Sys2Proof.Machine

/-! ## The loop of Decode, an equation per case (43_sequence_level.md R215) -/

section DecodeLoop
variable {off : Nat} {grp : List Val5} {out rest : List Byte} {c : Byte} {v : Val5}

theorem decodeFrom_end_padded : decodeFrom off true grp out [] = (.ok, out) := rfl

theorem decodeFrom_end_lone (h : grp.length = 1) : decodeFrom off false grp out [] = (.corrupt (off - 1), out) := by
  simp [decodeFrom, h]

theorem decodeFrom_end (h : grp.length ≠ 1) : decodeFrom off false grp out [] = (.ok, out ++ unpackGroup grp) := by
  simp [decodeFrom, h]

theorem decodeFrom_more_padding (hc : c = Config.padChar) :
    decodeFrom off true grp out (c :: rest) = decodeFrom (off + 1) true grp out rest := by simp [decodeFrom, hc]

theorem decodeFrom_after_padding (hc : c ≠ Config.padChar) :
    decodeFrom off true grp out (c :: rest) = (.corrupt off, out) := by simp [decodeFrom, hc]

theorem decodeFrom_padding_lone (hc : c = Config.padChar) (h : grp.length = 1) :
    decodeFrom off false grp out (c :: rest) = (.corrupt (off - 1), out) := by simp [decodeFrom, hc, h]

theorem decodeFrom_padding (hc : c = Config.padChar) (h : grp.length ≠ 1) :
    decodeFrom off false grp out (c :: rest) = decodeFrom (off + 1) true [] (out ++ unpackGroup grp) rest := by
  simp [decodeFrom, hc, h]

theorem decodeFrom_invalid (hc : c ≠ Config.padChar) (hv : dt c = none) :
    decodeFrom off false grp out (c :: rest) = (.corrupt off, out) := by simp [decodeFrom, hc, hv]

theorem decodeFrom_valid_of_room (hv : dt c = some v) (h : grp.length ≠ 7) :
    decodeFrom off false grp out (c :: rest) = decodeFrom (off + 1) false (grp ++ [v]) out rest := by
  simp [decodeFrom, ne_padChar_of_valid hv, hv, h]

theorem decodeFrom_valid_of_full (hv : dt c = some v) (h : grp.length = 7) :
    decodeFrom off false grp out (c :: rest) =
      decodeFrom (off + 1) false [] (out ++ unpackGroup (grp ++ [v])) rest := by
  simp [decodeFrom, ne_padChar_of_valid hv, hv, h]

end DecodeLoop

/-- What a decode looks at in a byte: its entry of DT, and whether it is padding. -/
def SameSymbol (x y : Byte) : Prop := dt y = dt x ∧ (y = Config.padChar ↔ x = Config.padChar)

/-- Bytes that are the same symbols decode alike. -/
theorem decodeFrom_congr {s s' : List Byte} (h : List.Forall₂ SameSymbol s s') (off : Nat) (padded : Bool)
    (grp : List Val5) (out : List Byte) : decodeFrom off padded grp out s' = decodeFrom off padded grp out s := by
  induction h generalizing off padded grp out with
  | nil => rfl
  | cons hsame _ ih =>
    obtain ⟨hdt, hpad⟩ := hsame
    simp only [decodeFrom, hdt, hpad, ih]

theorem uppercase_sameSymbol (x : Byte) : SameSymbol x (uppercase x) := by
  revert x
  unfold SameSymbol
  decide

theorem foldAlias_sameSymbol (x : Byte) : SameSymbol x (foldAlias x) := by
  revert x
  unfold SameSymbol
  decide

theorem SameSymbol.refl (x : Byte) : SameSymbol x x := ⟨rfl, Iff.rfl⟩

/-- A map that keeps every symbol does not change Decode. -/
theorem decodeSeq_map {f : Byte → Byte} (hf : ∀ x, SameSymbol x (f x)) (s : List Byte) :
    decodeSeq (s.map f) = decodeSeq s :=
  decodeFrom_congr (List.forall₂_map_right_iff.mpr (List.forall₂_same.mpr fun x _ => hf x)) _ _ _ _

/-- Settles O42: an uppercase letter and a canonical symbol have the DT entry of the byte they replace. -/
theorem caseAndAliasesFold : Obligations.CaseAndAliasesFold := by
  refine fun s => ⟨decodeSeq_map uppercase_sameSymbol s, fun s' h => decodeFrom_congr (h.imp ?_) _ _ _ _⟩
  rintro x y (rfl | rfl)
  · exact SameSymbol.refl y
  · exact foldAlias_sameSymbol x

/-! ## The values of a run of valid bytes -/

/-- Every byte is listed in DT. -/
abbrev AllValid (ss : List Byte) : Prop := ∀ x ∈ ss, dt x ≠ none

theorem valuesOf_cons {c : Byte} {v : Val5} (hv : dt c = some v) (ss : List Byte) :
    valuesOf (c :: ss) = v :: valuesOf ss := List.filterMap_cons_some hv

theorem valuesOf_length {ss : List Byte} (h : AllValid ss) : (valuesOf ss).length = ss.length := by
  induction ss with
  | nil => rfl
  | cons c ss ih =>
    obtain ⟨hc, hss⟩ := List.forall_mem_cons.mp h
    obtain ⟨v, hv⟩ := Option.ne_none_iff_exists'.mp hc
    rw [valuesOf_cons hv, List.length_cons, List.length_cons, ih hss]

/-- Valid bytes that do not complete the group are added to it. -/
theorem decodeFrom_open {ss : List Byte} (h : AllValid ss) {grp : List Val5} (hroom : grp.length + ss.length < 8)
    (off : Nat) (out rest : List Byte) :
    decodeFrom off false grp out (ss ++ rest) = decodeFrom (off + ss.length) false (grp ++ valuesOf ss) out rest := by
  induction ss generalizing off grp with
  | nil => simp [valuesOf]
  | cons c ss ih =>
    obtain ⟨hc, hss⟩ := List.forall_mem_cons.mp h
    obtain ⟨v, hv⟩ := Option.ne_none_iff_exists'.mp hc
    rw [List.length_cons] at hroom
    rw [List.cons_append, decodeFrom_valid_of_room hv (by omega), ih hss (by simp; omega), valuesOf_cons hv,
      List.length_cons, List.append_assoc, Nat.add_right_comm, Nat.add_assoc]
    rfl

/-- Eight valid bytes are a group of their own. -/
theorem decodeFrom_group {ss : List Byte} (h : AllValid ss) (hlen : ss.length = 8) (off : Nat) (out rest : List Byte) :
    decodeFrom off false [] out (ss ++ rest) =
      decodeFrom (off + 8) false [] (out ++ unpackGroup (valuesOf ss)) rest := by
  obtain rfl | ⟨seven, c, rfl⟩ := List.eq_nil_or_concat' ss
  · cases hlen
  have hseven : seven.length = 7 := by simpa using hlen
  have hvalid : AllValid seven := fun x hx => h x (List.mem_append_left _ hx)
  obtain ⟨v, hv⟩ := Option.ne_none_iff_exists'.mp (h c (by simp))
  have hvalues : valuesOf (seven ++ [c]) = valuesOf seven ++ [v] := by simp [valuesOf, List.filterMap_append, hv]
  rw [List.append_assoc, decodeFrom_open hvalid (by simp [hseven]), hseven, hvalues]
  exact decodeFrom_valid_of_full hv (by rw [List.nil_append, valuesOf_length hvalid, hseven])

/-! ## Unpacking what packing gave (40_codec_core.md R106, R109, R117) -/

/-- R109's lines undo R106's. -/
theorem byteByLines_fieldByLines {b : Nat → Nat} (hb : ∀ i, b i < 2 ^ 8) {i : Nat} (h : i < 5) :
    byteByLines (fieldByLines b) i = b i := by
  have h0 := hb 0
  have h1 := hb 1
  have h2 := hb 2
  have h3 := hb 3
  have h4 := hb 4
  interval_cases i <;> simp only [byteByLines, fieldByLines] <;> omega

/-- A byte of a group reads no value past the last one its quantum has. -/
theorem byteByLines_congr {v w : Nat → Nat} {n i : Nat} (hvw : ∀ m < encodedLength n, v m = w m) (hi : i < n)
    (hn : n ≤ 5) : byteByLines v i = byteByLines w i := by
  have hlast : (i * 8 + 12) / 5 ≤ encodedLength n := by unfold encodedLength; omega
  have heq : ∀ m < (i * 8 + 12) / 5, v m = w m := fun m hm => hvw m (by omega)
  have hi5 : i < 5 := by omega
  interval_cases i <;> simp [byteByLines, heq]

/-- Lists of one length with the same entries are the same. -/
theorem eq_of_entryNat {n : Nat} {l m : List (BitVec n)} (hlen : l.length = m.length)
    (h : ∀ i < m.length, entryNat l i = entryNat m i) : l = m := by
  refine List.ext_getElem hlen fun i hl hm => BitVec.eq_of_toNat_eq ?_
  simpa [entryNat, hl, hm] using h i hm

/-- A group that begins with the fields of a quantum, and yields as many bytes, yields the quantum. -/
theorem unpackGroup_of_fields {q : List Byte} {vs : List Val5} (hq : q.length ≤ 5)
    (hcount : groupBytes vs.length = q.length)
    (hvs : ∀ m < encodedLength q.length, entryNat vs m = fieldByLines (entryNat q) m) : unpackGroup vs = q := by
  have hlen : (unpackGroup vs).length = q.length := by
    simp only [unpackGroup, bytesOfFrame, List.length_take, List.length_map, List.length_range, hcount]
    omega
  refine eq_of_entryNat hlen fun i hi => ?_
  have hi5 : i < 5 := by omega
  rw [unpackGroup, entryNat_take, hcount, if_pos hi, bytesOfFrame, entryNat_map_range, if_pos hi5,
    frameByte_frameOfValues vs hi5, byteByLines_congr hvs hi hq, byteByLines_fieldByLines (entryNat_lt q) hi5]

theorem dt_alpha (v : Val5) : dt (alpha v) = some v := by
  revert v
  decide

/-- The symbols of a quantum stand for its fields. -/
theorem valuesOf_encodeQuantum (q : List Byte) :
    valuesOf (encodeQuantum q) = (fieldsOfFrame (bytesOnFrame q)).take (encodedLength q.length) := by
  rw [encodeQuantum, ← List.map_take, valuesOf, List.filterMap_map]
  exact (List.filterMap_congr fun v _ => dt_alpha v).trans List.filterMap_some

theorem encodeQuantum_allValid (q : List Byte) : AllValid (encodeQuantum q) := by
  intro x hx
  obtain ⟨v, -, rfl⟩ := List.mem_map.mp (List.mem_of_mem_take hx)
  simp [dt_alpha]

section EncodedQuantum
variable {q : List Byte} (hq : q.length ≤ 5)
include hq

theorem valuesOf_encodeQuantum_length : (valuesOf (encodeQuantum q)).length = encodedLength q.length := by
  rw [valuesOf_length (encodeQuantum_allValid q), encodeQuantum_length hq]

/-- The values of a quantum's symbols unpack to the quantum, also with values after them that add no byte (R117). -/
theorem unpackGroup_encodeQuantum {extra : List Val5}
    (hcount : groupBytes (encodedLength q.length + extra.length) = q.length) :
    unpackGroup (valuesOf (encodeQuantum q) ++ extra) = q := by
  have hlen := valuesOf_encodeQuantum_length hq
  refine unpackGroup_of_fields hq (by rwa [List.length_append, hlen]) fun m hm => ?_
  have hm8 : m < 8 := by simp only [encodedLength] at hm; omega
  rw [entryNat, List.getD_append _ _ _ _ (by omega), ← entryNat, valuesOf_encodeQuantum, entryNat_take, if_pos hm,
    fieldsOfFrame, entryNat_map_range, if_pos hm8, frameField_bytesOnFrame q hm8]

theorem unpackGroup_valuesOf_encodeQuantum : unpackGroup (valuesOf (encodeQuantum q)) = q := by
  have h := unpackGroup_encodeQuantum hq (extra := [])
    (by simp only [groupBytes, encodedLength, List.length_nil]; omega)
  rwa [List.append_nil] at h

end EncodedQuantum

/-! ## Decode of an encoding (43_sequence_level.md R216, R217, R220, R221) -/

theorem decodeFrom_padded (p off : Nat) (grp : List Val5) (out : List Byte) :
    decodeFrom off true grp out (List.replicate p Config.padChar) = (.ok, out) := by
  induction p generalizing off with
  | zero => rfl
  | succ p ih => rw [List.replicate_succ, decodeFrom_more_padding rfl, ih]

/-- At the end, with padding or without, a group that is no lone symbol is delivered. -/
theorem decodeFrom_paddings {grp : List Val5} (h : grp.length ≠ 1) (p off : Nat) (out : List Byte) :
    decodeFrom off false grp out (List.replicate p Config.padChar) = (.ok, out ++ unpackGroup grp) := by
  cases p with
  | zero => exact decodeFrom_end h
  | succ p => rw [List.replicate_succ, decodeFrom_padding rfl h, decodeFrom_padded]

/-- The symbols of a partial quantum are read into the current group. -/
theorem decodeFrom_partial_quantum {q : List Byte} (hq : q.length < 5) (off : Nat) (out rest : List Byte) :
    decodeFrom off false [] out (encodeQuantum q ++ rest) =
      decodeFrom (off + encodedLength q.length) false (valuesOf (encodeQuantum q)) out rest := by
  have hroom : encodedLength q.length < 8 := by unfold encodedLength; omega
  rw [decodeFrom_open (encodeQuantum_allValid q) (by rwa [encodeQuantum_length hq.le, List.length_nil, zero_add]),
    encodeQuantum_length hq.le, List.nil_append]

/-- What decodes the last, partial quantum of an encoding decodes all of it: the full quanta before it come back. -/
theorem decodeFrom_encodeSeq {n : Nat} {tail : List Byte}
    (hlast : ∀ q : List Byte, q.length < 5 → q.length = n →
      ∀ off out, decodeFrom off false [] out (encodeQuantum q ++ tail) = (.ok, out ++ q))
    (b : List Byte) (hb : b.length % 5 = n) (off : Nat) (out : List Byte) :
    decodeFrom off false [] out (encodeSeq b ++ tail) = (.ok, out ++ b) := by
  induction b using quanta_induction generalizing off out with
  | short q hq =>
    rw [encodeSeq_of_short hq]
    exact hlast q hq (by omega) off out
  | full q b hq ih =>
    have hsymbols : (encodeQuantum q).length = 8 := by rw [encodeQuantum_length hq.le, hq]; rfl
    rw [encodeSeq_append hq, List.append_assoc, decodeFrom_group (encodeQuantum_allValid q) hsymbols,
      unpackGroup_valuesOf_encodeQuantum hq.le, ih (by simpa [hq] using hb), List.append_assoc]

/-- Settles O40: every quantum comes back from its symbols, and padding after the last one delivers it as the end
does. -/
theorem paddedEncodingDecodesBack : Obligations.PaddedEncodingDecodesBack := by
  refine fun b p => decodeFrom_encodeSeq (fun q hq _ off out => ?_) b rfl 0 []
  have hnotLone : (valuesOf (encodeQuantum q)).length ≠ 1 := by
    rw [valuesOf_encodeQuantum_length hq.le, encodedLength]
    omega
  exact (decodeFrom_partial_quantum hq off out _).trans
    ((decodeFrom_paddings hnotLone p _ out).trans (by rw [unpackGroup_valuesOf_encodeQuantum hq.le]))

theorem decodeSeq_encodeSeq (b : List Byte) : decodeSeq (encodeSeq b) = (.ok, b) := by
  simpa using paddedEncodingDecodesBack b 0

/-- Settles O43: the value added to the 2 or 5 of the last group completes no byte. -/
theorem extraSymbolIsIgnored : Obligations.ExtraSymbolIsIgnored := by
  refine fun b v hb => decodeFrom_encodeSeq (fun q hq hqb off out => ?_) b rfl 0 []
  have hlen := valuesOf_encodeQuantum_length hq.le
  have hq13 : q.length = 1 ∨ q.length = 3 := by omega
  have hcount : groupBytes (encodedLength q.length + [v].length) = q.length := by
    simp only [groupBytes, encodedLength, List.length_singleton]
    omega
  simp only [encodedLength] at hlen
  rw [decodeFrom_partial_quantum hq, decodeFrom_valid_of_room (dt_alpha v) (by omega),
    decodeFrom_end (by simp only [List.length_append, List.length_singleton]; omega),
    unpackGroup_encodeQuantum hq.le hcount]

theorem canonicalize_sameSymbol (x : Byte) : SameSymbol x (canonicalize x) := by
  obtain ⟨hdt, hpad⟩ := uppercase_sameSymbol x
  obtain ⟨hdt', hpad'⟩ := foldAlias_sameSymbol (uppercase x)
  exact ⟨hdt'.trans hdt, hpad'.trans hpad⟩

/-- Settles O41: the canonical form decodes as the bytes themselves do. -/
theorem reencodingCanonicalizes : Obligations.ReencodingCanonicalizes := by
  intro b s h
  refine ⟨b, ?_, h.symm⟩
  rw [← decodeSeq_map canonicalize_sameSymbol s, h, decodeSeq_encodeSeq]

/-! ## Encode and ENCQ (43_sequence_level.md R210) -/

theorem encodeSeq_of_quantum {q : List Byte} (h : q.length ≤ 5) : encodeSeq q = encodeQuantum q := by
  obtain h5 | h5 := h.lt_or_eq
  · exact encodeSeq_of_short h5
  · have happ := encodeSeq_append h5 []
    rwa [List.append_nil, encodeSeq_of_short (bs := []) (by decide), show encodeQuantum [] = [] from rfl,
      List.append_nil] at happ

/-- OPND with the bytes of a quantum in its first lanes is read as the quantum (30_encoding.md R72). -/
theorem operandBytes_eq_quantum {q : List Byte} {w : Bus} (hq : q.length ≤ 5)
    (hw : ∀ i < q.length, w.toNat / 2 ^ (32 - 8 * i) % 256 = entryNat q i) : operandBytes w q.length = q := by
  rw [operandBytes_eq w hq]
  refine eq_of_entryNat (by simp) fun i hi => ?_
  rw [entryNat_map_range, if_pos hi, extractLsb'_toNat_eq_div_mod]
  exact hw i hi

/-- Settles O39: Encode of a quantum is its symbols, which are the lanes of ENCQ's answer. -/
theorem encodeIsEncqByQuanta : Obligations.EncodeIsEncqByQuanta := by
  refine ⟨rfl, fun q rest hq => ?_, fun q s hq hopnd => ?_, encodeSeq_length⟩
  · rw [encodeSeq_append hq, encodeSeq_of_quantum hq.le]
  · have hk : (BitVec.ofNat 4 q.length).toNat = q.length := Nat.mod_eq_of_lt (by omega)
    have hk5 : BitVec.ofNat 4 q.length ≤ 5#4 := by rw [BitVec.le_def, hk]; exact hq
    have hsymbols := offerOf_symbols (encodeQuantum_length_le hq)
    have hexec := execEncq_of_le (s := s) hk5
    rw [hk, operandBytes_eq_quantum hq hopnd, ← encodeQuantum_length hq] at hexec
    exact ⟨⟨.ok, _, _⟩, hexec, rfl, (encodeSeq_of_quantum hq).trans hsymbols.symm⟩

/-! ## Groups of eight valid bytes (42_stream_decoder.md R177, R179) -/

/-- The values of the bytes after the last complete group. -/
def openGroup (ss : List Byte) : List Val5 := valuesOf (ss.drop (8 * (ss.length / 8)))

/-- The bytes of the complete groups. -/
def completeGroups : List Byte → List Byte
  | s0 :: s1 :: s2 :: s3 :: s4 :: s5 :: s6 :: s7 :: rest =>
    unpackGroup (valuesOf [s0, s1, s2, s3, s4, s5, s6, s7]) ++ completeGroups rest
  | _ => []

theorem completeGroups_of_short {ss : List Byte} (h : ss.length < 8) : completeGroups ss = [] := by
  match ss with
  | [] | [_] | [_, _] | [_, _, _] | [_, _, _, _] | [_, _, _, _, _] | [_, _, _, _, _, _] | [_, _, _, _, _, _, _] => rfl

theorem openGroup_of_short {ss : List Byte} (h : ss.length < 8) : openGroup ss = valuesOf ss := by
  rw [openGroup, Nat.div_eq_of_lt h]
  rfl

section FullGroup
variable {g : List Byte} (h : g.length = 8) (ss : List Byte)
include h

theorem completeGroups_append : completeGroups (g ++ ss) = unpackGroup (valuesOf g) ++ completeGroups ss := by
  match g with
  | [_, _, _, _, _, _, _, _] => rfl

theorem openGroup_append : openGroup (g ++ ss) = openGroup ss := by
  have hcut : 8 * ((8 + ss.length) / 8) = g.length + 8 * (ss.length / 8) := by omega
  rw [openGroup, List.length_append, h, hcut, List.drop_length_add_append]
  rfl

end FullGroup

/-- Induction by groups. -/
theorem groups_induction {P : List Byte → Prop} (short : ∀ ss, ss.length < 8 → P ss)
    (full : ∀ g ss, g.length = 8 → P ss → P (g ++ ss)) (ss : List Byte) : P ss := by
  by_cases h : ss.length < 8
  · exact short ss h
  · have hrest := groups_induction short full (ss.drop 8)
    simpa using full (ss.take 8) (ss.drop 8) (by simp; omega) hrest
termination_by ss.length
decreasing_by simp; omega

theorem openGroup_length {ss : List Byte} (h : AllValid ss) : (openGroup ss).length = ss.length % 8 := by
  have hdrop : AllValid (ss.drop (8 * (ss.length / 8))) := fun x hx => h x (List.mem_of_mem_drop hx)
  rw [openGroup, valuesOf_length hdrop, List.length_drop]
  omega

theorem completeGroups_length {ss : List Byte} (h : AllValid ss) :
    (completeGroups ss).length = 5 * (ss.length / 8) := by
  induction ss using groups_induction with
  | short ss hlen => rw [completeGroups_of_short hlen, Nat.div_eq_of_lt hlen]; rfl
  | full g ss hlen ih =>
    have ⟨hg, hss⟩ := List.forall_mem_append.mp h
    have hvalues : (valuesOf g).length = 8 := (valuesOf_length hg).trans hlen
    rw [completeGroups_append hlen, List.length_append, ih hss, unpackGroup_length hvalues.le, hvalues,
      List.length_append, hlen]
    simp only [groupBytes]
    omega

/-- Valid bytes deliver their complete groups, and the rest of them is the current group. -/
theorem decodeFrom_allValid {ss : List Byte} (h : AllValid ss) (off : Nat) (out rest : List Byte) :
    decodeFrom off false [] out (ss ++ rest) =
      decodeFrom (off + ss.length) false (openGroup ss) (out ++ completeGroups ss) rest := by
  induction ss using groups_induction generalizing off out with
  | short ss hlen =>
    rw [decodeFrom_open h (by simpa using hlen), openGroup_of_short hlen, completeGroups_of_short hlen,
      List.append_nil, List.nil_append]
  | full g ss hlen ih =>
    have ⟨hg, hss⟩ := List.forall_mem_append.mp h
    rw [List.append_assoc, decodeFrom_group hg hlen, ih hss, openGroup_append hlen, completeGroups_append hlen,
      List.length_append, hlen, List.append_assoc, Nat.add_assoc]

theorem decodeSeq_allValid_append {ss : List Byte} (h : AllValid ss) (rest : List Byte) :
    decodeSeq (ss ++ rest) = decodeFrom ss.length false (openGroup ss) (completeGroups ss) rest := by
  rw [decodeSeq, decodeFrom_allValid h, List.nil_append, Nat.zero_add]

section ValidBytes
variable {ss : List Byte} (h : AllValid ss)
include h

theorem decodeSeq_allValid (hlone : ss.length % 8 ≠ 1) :
    decodeSeq ss = (.ok, completeGroups ss ++ unpackGroup (openGroup ss)) := by
  have happ := decodeSeq_allValid_append h []
  rwa [List.append_nil, decodeFrom_end (by rwa [openGroup_length h])] at happ

theorem decodeSeq_allValid_lone (hlone : ss.length % 8 = 1) :
    decodeSeq ss = (.corrupt (ss.length - 1), completeGroups ss) := by
  have happ := decodeSeq_allValid_append h []
  rwa [List.append_nil, decodeFrom_end_lone (by rwa [openGroup_length h])] at happ

end ValidBytes

theorem completeGroups_take (ss : List Byte) : completeGroups (ss.take (8 * (ss.length / 8))) = completeGroups ss := by
  induction ss using groups_induction with
  | short ss hlen => rw [Nat.div_eq_of_lt hlen, completeGroups_of_short hlen]; rfl
  | full g ss hlen ih =>
    have hcut : 8 * ((8 + ss.length) / 8) = g.length + 8 * (ss.length / 8) := by omega
    rw [List.length_append, hlen, hcut, List.take_length_add_append, completeGroups_append hlen,
      completeGroups_append hlen, ih]

/-- The complete groups decode on their own. -/
theorem decodeSeq_take_groups {ss : List Byte} (h : AllValid ss) :
    (decodeSeq (ss.take (8 * (ss.length / 8)))).2 = completeGroups ss := by
  have hlen : (ss.take (8 * (ss.length / 8))).length = 8 * (ss.length / 8) := by simp; omega
  have hvalid : AllValid (ss.take (8 * (ss.length / 8))) := fun x hx => h x (List.mem_of_mem_take hx)
  have hopen : openGroup (ss.take (8 * (ss.length / 8))) = [] :=
    List.eq_nil_of_length_eq_zero (by rw [openGroup_length hvalid, hlen]; omega)
  rw [decodeSeq_allValid hvalid (by omega), hopen, completeGroups_take]
  exact List.append_nil _

theorem decodeFrom_padded_then_other {c : Byte} (hc : c ≠ Config.padChar) (p off : Nat) (grp : List Val5)
    (out post : List Byte) :
    decodeFrom off true grp out (List.replicate p Config.padChar ++ c :: post) = (.corrupt (off + p), out) := by
  induction p generalizing off with
  | zero => exact decodeFrom_after_padding hc
  | succ p ih =>
    rw [List.replicate_succ, List.cons_append, decodeFrom_more_padding rfl, ih, Nat.add_assoc, Nat.add_comm 1]

/-- Settles O44: the valid bytes leave a current group, and the failing byte is looked at next. -/
theorem firstInvalidByteIsReported : Obligations.FirstInvalidByteIsReported := by
  intro pre post c hpre
  have hopen := openGroup_length hpre
  refine ⟨fun hc hinvalid => ?_, fun p hp hlone hc => ?_, fun hlone => ?_⟩
  · rw [decodeSeq_allValid_append hpre, decodeFrom_invalid hc hinvalid, decodeSeq_take_groups hpre]
    exact ⟨rfl, completeGroups_length hpre⟩
  · obtain ⟨p, rfl⟩ : ∃ n, p = n + 1 := ⟨p - 1, by omega⟩
    rw [List.append_assoc, decodeSeq_allValid_append hpre, decodeSeq_allValid hpre hlone, List.replicate_succ,
      List.cons_append]
    exact (decodeFrom_padding rfl (by rwa [hopen])).trans
      ((decodeFrom_padded_then_other hc p _ _ _ post).trans (by rw [Nat.add_assoc, Nat.add_comm 1]))
  · rw [decodeSeq_allValid_append hpre, decodeSeq_take_groups hpre]
    exact decodeFrom_padding_lone rfl (by rwa [hopen])

/-! ## How many bytes a decode delivers (43_sequence_level.md R225) -/

theorem unpackGroup_length_le {vs : List Val5} (h : vs.length ≤ 8) : 8 * (unpackGroup vs).length ≤ 5 * vs.length := by
  rw [unpackGroup_length h, groupBytes]
  omega

/-- Eight bytes in each five symbols: `out`, the current group and the bytes to come pay for what is delivered. -/
theorem decodeFrom_length (off : Nat) (padded : Bool) {grp : List Val5} (hgrp : grp.length ≤ 7) (out ss : List Byte) :
    8 * (decodeFrom off padded grp out ss).2.length ≤ 8 * out.length + 5 * (grp.length + ss.length) := by
  induction ss generalizing off padded grp out with
  | nil =>
    cases padded with
    | true => rw [decodeFrom_end_padded]; exact Nat.le_add_right ..
    | false =>
      by_cases hlone : grp.length = 1
      · rw [decodeFrom_end_lone hlone]; exact Nat.le_add_right ..
      · have hbytes := unpackGroup_length_le (vs := grp) (by omega)
        rw [decodeFrom_end hlone, List.length_append]
        omega
  | cons c ss ih =>
    have hstop : 8 * out.length ≤ 8 * out.length + 5 * (grp.length + (c :: ss).length) := Nat.le_add_right ..
    rw [List.length_cons] at hstop ⊢
    cases padded with
    | true =>
      by_cases hc : c = Config.padChar
      · rw [decodeFrom_more_padding hc]
        exact (ih (off + 1) true hgrp out).trans (by omega)
      · rwa [decodeFrom_after_padding hc]
    | false =>
      by_cases hc : c = Config.padChar
      · by_cases hlone : grp.length = 1
        · rwa [decodeFrom_padding_lone hc hlone]
        · have hbytes := unpackGroup_length_le (vs := grp) (by omega)
          rw [decodeFrom_padding hc hlone]
          exact (ih (off + 1) true (grp := []) (Nat.zero_le 7) _).trans
            (by rw [List.length_append, List.length_nil]; omega)
      · cases hv : dt c with
        | none => rwa [decodeFrom_invalid hc hv]
        | some v =>
          have hadded : (grp ++ [v]).length = grp.length + 1 := List.length_append
          by_cases hfull : grp.length = 7
          · have hbytes := unpackGroup_length_le (vs := grp ++ [v]) (by omega)
            rw [decodeFrom_valid_of_full hv hfull]
            exact (ih (off + 1) false (grp := []) (Nat.zero_le 7) _).trans
              (by rw [List.length_append, List.length_nil]; omega)
          · rw [decodeFrom_valid_of_room hv hfull]
            exact (ih (off + 1) false (by omega) out).trans (by omega)

/-- Settles O45: valid bytes by their groups, and the bound for every input. -/
theorem validSymbolsDecode : Obligations.ValidSymbolsDecode := by
  refine ⟨fun s h => ?_, fun s => ?_⟩
  · by_cases hlone : s.length % 8 = 1
    · rw [decodeSeq_allValid_lone h hlone]
      exact ⟨by simp [hlone], fun hne => absurd hlone hne, fun _ => rfl⟩
    · rw [decodeSeq_allValid h hlone]
      refine ⟨by simp [hlone], fun _ => ?_, fun heq => absurd heq hlone⟩
      have hopen := openGroup_length h
      rw [List.length_append, completeGroups_length h, unpackGroup_length (by omega), hopen, groupBytes]
      omega
  · have hbound := decodeFrom_length 0 false (grp := []) (Nat.zero_le 7) [] s
    simp only [List.length_nil] at hbound
    exact (Nat.le_div_iff_mul_le (by decide)).mpr (by rw [decodeSeq]; omega)

end Sys2Proof.Machine

namespace Sys2Proof.Machine

/-! ## A command issued by the host with a sink that accepts (43_sequence_level.md R211 to R213; log 17) -/

/-- `s` with the host's command and the sink's ACCEPT on the pins. -/
def State.offered (s : State) (i : Instr) : State := s.taking (inputOf i 0 (some .accept)) s.script

/-- A command issued while none waits is executed, and the response it drives is the host's. -/
theorem issue_of_respond {i : Instr} {s u : State} {st : Status} {res : Bus} {rlen : BitVec 4}
    (hwf : i.wellFormed = true) (hwait : s.waiting = none) (hexec : exec i (s.offered i) = respond st res rlen u) :
    issue i acceptAll s = some (⟨st, res, rlen⟩, u.respond st res rlen) := by
  have hstep : step { s with script := inputOf i 0 (some .accept) :: s.script } = .next (u.respond st res rlen) :=
    (step_of_issued (s := { s with script := inputOf i 0 (some .accept) :: s.script }) hwf hwait rfl).trans hexec
  rw [issue, if_neg (by simp [hwait])]
  simp only [acceptAll, hstep, State.respond_responses, List.getLast?_concat]

/-! ## Chunks written through EWRITE (43_sequence_level.md R211, R213, R223) -/

section AcceptedAtOnce
variable {s : State} {q : List Byte} (hq : s.seb.Pending q) (hans : s.now.ans = some .accept)
include hq hans

theorem ewrite_answers_ok (b : Byte) :
    ∃ u : State, exec (.ewrite b) s = respond .ok 0 0 u ∧ u.responses = s.responses := by
  by_cases hroom : s.seb.vcnt < 4#3
  · exact ⟨_, execEwrite_of_room hq.errv hq.closed hroom, rfl⟩
  · exact ⟨_, (execEwrite_of_full hq.errv hq.closed hroom).trans (sinkTransfer_of_accept hans), rfl⟩

theorem eclose_answers_ok : ∃ u : State, exec .eclose s = respond .ok 0 0 u ∧ u.responses = s.responses := by
  by_cases hempty : s.seb.vcnt = 0
  · exact ⟨_, execEclose_of_empty hq.errv hq.closed hempty, rfl⟩
  · exact ⟨_, (execEclose_of_pending hq.errv hq.closed hempty).trans (sinkTransfer_of_accept hans), rfl⟩

end AcceptedAtOnce

/-- An open buffer without a failure shows neither flag in ESR (10_state.md R28). -/
theorem Seb.Pending.esr_flags {e : Seb} {q : List Byte} (h : e.Pending q) :
    e.esr.getLsbD 4 = false ∧ e.esr.getLsbD 3 = false := by
  have hesr := e.esr_toNat
  rw [h.errv, h.closed, Bool.toNat_false] at hesr
  have hvcnt : e.vcnt.toNat < 8 := e.vcnt.isLt
  rw [← BitVec.testBit_toNat, ← BitVec.testBit_toNat, Nat.testBit_eq_decide_div_mod_eq,
    Nat.testBit_eq_decide_div_mod_eq, decide_eq_false_iff_not, decide_eq_false_iff_not]
  constructor <;> omega

/-- The payload so far has been taken: with the encoding of the pending bytes and of whatever follows, what the sink has
accepted is `before` and the encoding of the payload and what follows. -/
structure State.Streams (s : State) (before payload : List Byte) : Prop where
  waiting : s.waiting = none
  owed : ∃ q, s.seb.Pending q ∧
    ∀ more, s.acceptedSymbols ++ encodeSeq (q ++ more) = before ++ encodeSeq (payload ++ more)

theorem Seb.reset_streams {s : State} (hreset : s.seb = Seb.reset) (hwait : s.waiting = none) :
    s.Streams s.acceptedSymbols [] :=
  ⟨hwait, [], hreset ▸ Seb.reset_pending, fun _ => rfl⟩

section Streams
variable {s : State} {before payload : List Byte} (h : s.Streams before payload)
include h

/-- A byte written is taken: it is pending, or its quantum is with the sink. -/
theorem State.Streams.ewrite (b : Byte) :
    ∃ t, issue (.ewrite b) acceptAll s = some (okResponse, t) ∧ t.Streams before (payload ++ [b]) := by
  obtain ⟨hwait, q, hq, howed⟩ := h
  obtain ⟨u, hexec, hresp⟩ := ewrite_answers_ok (s := s.offered (.ewrite b)) hq rfl b
  refine ⟨u.respond .ok 0 0, issue_of_respond rfl hwait hexec, rfl, ?_⟩
  obtain ⟨hpending, hsame⟩ | ⟨hfull, hpending, hadded⟩ :=
    ewrite_of_ok (s := s.offered (.ewrite b)) hq rfl hexec (by rw [State.respond_responses, hresp]; rfl)
  · refine ⟨q ++ [b], hpending, fun more => ?_⟩
    rw [State.acceptedSymbols, hsame, List.append_assoc, List.append_assoc]
    exact howed ([b] ++ more)
  · refine ⟨[], hpending, fun more => ?_⟩
    have hquantum := howed ([b] ++ more)
    rw [← List.append_assoc, encodeSeq_append hfull, ← List.append_assoc payload] at hquantum
    rw [State.acceptedSymbols, hadded, List.flatMap_append, List.flatMap_singleton, acceptedQuantum_taken hfull.le,
      List.append_assoc]
    exact hquantum

/-- Closing brings the pending bytes to the sink. -/
theorem State.Streams.close :
    ∃ u, hostClose acceptAll s = some u ∧ u.response = okResponse ∧
      u.state.acceptedSymbols = before ++ encodeSeq payload := by
  obtain ⟨hwait, q, hq, howed⟩ := h
  obtain ⟨u, hexec, hresp⟩ := eclose_answers_ok (s := s.offered .eclose) hq rfl
  have htransfers := eclose_of_ok (s := s.offered .eclose) hq rfl hexec (by rw [State.respond_responses, hresp]; rfl)
  refine ⟨⟨0, okResponse, u.respond .ok 0 0⟩, by rw [hostClose, issue_of_respond rfl hwait hexec]; rfl, rfl, ?_⟩
  rw [State.acceptedSymbols, htransfers, List.flatMap_append, acceptedQuanta_taken]
  have hclosed := howed []
  rwa [List.append_nil, List.append_nil] at hclosed

/-- Every byte of a chunk is written, each answered OK. -/
theorem State.Streams.writeFrom (n : Nat) (p : List Byte) :
    ∃ t, writeFrom acceptAll n s p = some ⟨n + p.length, okResponse, t⟩ ∧ t.Streams before (payload ++ p) := by
  induction p generalizing s n payload with
  | nil => exact ⟨s, rfl, by rwa [List.append_nil]⟩
  | cons b p ih =>
    obtain ⟨t, hissue, ht⟩ := h.ewrite b
    obtain ⟨u, hwrite, hu⟩ := ih ht (n + 1)
    refine ⟨u, ?_, by simpa using hu⟩
    rw [List.length_cons, Nat.add_comm p.length, ← Nat.add_assoc, ← hwrite, Machine.writeFrom, hissue]
    rfl

/-- An empty write reads the status of an open buffer without a failure, which is OK. -/
theorem State.Streams.emptyWrite :
    ∃ t, emptyWrite acceptAll s = some ⟨0, okResponse, t⟩ ∧ t.Streams before payload := by
  obtain ⟨hwait, q, hq, howed⟩ := h
  refine ⟨(s.offered .estat).respond .ok s.seb.esr 0, ?_, rfl, q, hq, howed⟩
  obtain ⟨herrv, hclosed⟩ := hq.esr_flags
  rw [Machine.emptyWrite, issue_of_respond rfl hwait (res := s.seb.esr) (u := s.offered .estat) rfl]
  simp only [herrv, hclosed, Bool.false_eq_true, if_false]

/-- A chunk written is taken whole and answered OK. -/
theorem State.Streams.hostWrite (p : List Byte) :
    ∃ t, hostWrite acceptAll p s = some ⟨p.length, okResponse, t⟩ ∧ t.Streams before (payload ++ p) := by
  cases p with
  | nil =>
    rw [List.append_nil]
    exact h.emptyWrite
  | cons b p =>
    have hwrite := h.writeFrom 0 (b :: p)
    rwa [Nat.zero_add] at hwrite

theorem State.Streams.writeChunks (chunks : List (List Byte)) :
    ∃ t, writeChunks acceptAll s chunks = some t ∧ t.Streams before (payload ++ chunks.flatten) := by
  induction chunks generalizing s payload with
  | nil => exact ⟨s, rfl, by simpa using h⟩
  | cons p chunks ih =>
    obtain ⟨t, hwrite, ht⟩ := h.hostWrite p
    obtain ⟨u, hrest, hu⟩ := ih ht
    refine ⟨u, ?_, by simpa using hu⟩
    simp [Machine.writeChunks, hwrite, hrest, okResponse]

end Streams

/-- Settles O47: every chunk is taken whole, so that closing leaves the sink with the encoding of all of them. -/
theorem chunkingDoesNotMatter : Obligations.ChunkingDoesNotMatter := by
  intro chunks s hreset hwait
  obtain ⟨t, hwrite, ht⟩ := (Seb.reset_streams hreset hwait).writeChunks chunks
  obtain ⟨u, hclose, hok, haccepted⟩ := ht.close
  exact ⟨t, u, hwrite, hclose, hok, haccepted⟩

end Sys2Proof.Machine

namespace Sys2Proof.Machine

/-! ## What a decode buffer still delivers (43_sequence_level.md R215, R224) -/

/-- The registers are at a round of the loop of Decode: its `off` is in SOFF, its `padded` in DST, its group in SACC,
and of the bytes it has put out the queue holds those not read yet. -/
structure Sdb.InLoop (d : Sdb) (off : Nat) (padded : Bool) (grp : List Val5) (out : List Byte) : Prop where
  dst_eq : d.dst = if padded then .pad else .run
  soff_eq : d.soff = BitVec.ofNat 64 off
  group_eq : d.group = grp
  group_le : grp.length ≤ off
  queued_eq : d.queued = out

/-- The answer of every DREAD once a terminal condition is recorded and the queue is empty (R187). -/
def Sdb.terminal (d : Sdb) : Response := ⟨d.emptyAnswer.1, d.emptyAnswer.2, 0⟩

/-- From these registers and this source, reads deliver the bytes and then the response: what the loop of Decode gives
for the rest of the source, or, once it has ended, what is queued and recorded, whatever the source still holds. -/
inductive Sdb.Delivers (d : Sdb) : List SourceEvent → List Byte → Response → Prop
  | running {off : Nat} {padded : Bool} {grp : List Val5} {out : List Byte} (h : d.InLoop off padded grp out)
      (rest : List Byte) :
      d.Delivers (sourceOf rest) (decodeFrom off padded grp out rest).2 (decodeFrom off padded grp out rest).1.response
  | ended {src : List SourceEvent} (hdst : d.dst = .term) : d.Delivers src d.queued d.terminal

theorem Sdb.reset_delivers (bytes : List Byte) :
    Sdb.reset.Delivers (sourceOf bytes) (decodeSeq bytes).2 (decodeSeq bytes).1.response :=
  .running (padded := false) ⟨rfl, rfl, rfl, Nat.le_refl 0, rfl⟩ bytes

theorem Sdb.group_of_empty {d : Sdb} (h : d.scnt = 0) : d.group = [] :=
  List.eq_nil_of_length_eq_zero (by rw [d.group_length, h]; rfl)

/-- A group queued is what the queue delivers (42_stream_decoder.md R177). -/
theorem Sdb.queueGroup_queued {vs : List Val5} (h : vs.length ≤ 8) (d : Sdb) :
    (d.queueGroup vs).queued = unpackGroup vs := by
  have hlen : (unpackGroup vs).length = 5 * vs.length / 8 := unpackGroup_length h
  have hqueued : (d.queueGroup vs).queued = (queueBytes (unpackGroup vs)).toList.take (unpackGroup vs).length := by
    rw [Sdb.queued, Sdb.queueGroup_qcnt, groupBytes_toNat h, hlen]
    rfl
  rw [hqueued]
  refine eq_of_entryNat (by simp; omega) fun i hi => ?_
  rw [entryNat_take, if_pos hi, entryNat_queueBytes _ (by omega)]

/-- The final group of a message is queued, if it is not empty (42_stream_decoder.md R183). -/
theorem Sdb.queueFinal_queued {d : Sdb} (hq : d.qcnt = 0) (hlone : d.scnt ≠ 1#3) :
    d.queueFinal.queued = unpackGroup d.group := by
  by_cases h2 : 2#3 ≤ d.scnt
  · rw [Sdb.queueFinal_of_two h2]
    exact Sdb.queueGroup_queued (by rw [d.group_length]; omega) d
  · rw [Sdb.queueFinal_of_lt_two h2, Sdb.queued_of_empty hq, Sdb.group_of_empty (by bv_omega)]
    rfl

section Recorded
variable {d : Sdb} {src : List SourceEvent} (hdst : d.dst = .term)
include hdst

theorem Sdb.delivers_of_corrupt {n : Nat} (hpst : d.pst = .corrupt) (hpoff : d.poff = BitVec.ofNat 64 n)
    (hq : d.qcnt = 0) : d.Delivers src [] (Verdict.corrupt n).response := by
  have h := Sdb.Delivers.ended (src := src) hdst
  rwa [Sdb.queued_of_empty hq, Sdb.terminal, Sdb.emptyAnswer_of_corrupt hdst hpst, hpoff] at h

theorem Sdb.delivers_of_eof {out : List Byte} (hpst : d.pst = .eof) (hout : d.queued = out) :
    d.Delivers src out Verdict.ok.response := by
  have h := Sdb.Delivers.ended (src := src) hdst
  rwa [hout, Sdb.terminal, Sdb.emptyAnswer_of_eof hdst hpst] at h

end Recorded

/-! ### Input taken with the queue empty is one round of the loop -/

section Round
variable {d : Sdb} {off : Nat} {grp : List Val5} {out : List Byte}

theorem Sdb.InLoop.next_soff {padded : Bool} (h : d.InLoop off padded grp out) :
    d.soff + 1 = BitVec.ofNat 64 (off + 1) := by
  rw [h.soff_eq, BitVec.ofNat_add]
  rfl

theorem Sdb.InLoop.prev_soff {padded : Bool} (h : d.InLoop off padded grp out) (hlone : grp.length = 1) :
    d.soff - 1 = BitVec.ofNat 64 (off - 1) := by
  have hle := h.group_le
  obtain ⟨n, rfl⟩ : ∃ n, off = n + 1 := ⟨off - 1, by omega⟩
  rw [h.soff_eq, BitVec.ofNat_add]
  exact BitVec.add_sub_cancel _ _

theorem Sdb.InLoop.scnt_eq {padded : Bool} (h : d.InLoop off padded grp out) : grp.length = d.scnt.toNat :=
  h.group_eq ▸ d.group_length

section Running
variable (h : d.InLoop off false grp []) (hq : d.qcnt = 0)
include h

theorem Sdb.InLoop.lone_iff : grp.length = 1 ↔ d.scnt = 1#3 := by
  rw [h.scnt_eq, ← BitVec.toNat_inj]
  rfl

include hq

theorem Sdb.InLoop.push_padding (rest : List Byte) :
    (d.push Config.padChar).Delivers (sourceOf rest) (decodeFrom off false grp [] (Config.padChar :: rest)).2
      (decodeFrom off false grp [] (Config.padChar :: rest)).1.response := by
  by_cases hlone : d.scnt = 1#3
  · have hlen := h.lone_iff.mpr hlone
    rw [Sdb.push_padding_of_lone h.dst_eq rfl hlone, decodeFrom_padding_lone rfl hlen]
    exact Sdb.delivers_of_corrupt rfl rfl (h.prev_soff hlen) hq
  · have hqueued : (Sdb.queueFinal { d with soff := d.soff + 1 }).queued = unpackGroup grp :=
      (Sdb.queueFinal_queued (d := { d with soff := d.soff + 1 }) hq hlone).trans (congrArg _ h.group_eq)
    rw [Sdb.push_of_run h.dst_eq, Sdb.pushRun_of_padding rfl, Sdb.startPadding_of_not_lone (by exact hlone),
      decodeFrom_padding rfl (h.lone_iff.not.mpr hlone)]
    refine .running (padded := true) ?_ rest
    exact ⟨rfl, Sdb.queueFinal_soff.trans h.next_soff, Sdb.group_of_empty rfl, Nat.zero_le _, hqueued⟩

theorem Sdb.InLoop.push_valid {b : Byte} {v : Val5} (hv : dt b = some v) (rest : List Byte) :
    (d.push b).Delivers (sourceOf rest) (decodeFrom off false grp [] (b :: rest)).2
      (decodeFrom off false grp [] (b :: rest)).1.response := by
  have hlen := h.scnt_eq
  have hle := h.group_le
  by_cases hroom : d.scnt < 7#3
  · have hgroup := Sdb.takeValue_group v hroom
    rw [Sdb.takeValue_of_room hroom, h.group_eq] at hgroup
    rw [Sdb.push_valid_of_room h.dst_eq hv hroom, decodeFrom_valid_of_room hv (by bv_omega)]
    refine .running ?_ rest
    exact ⟨h.dst_eq, h.next_soff, hgroup, by simpa using hle, Sdb.queued_of_empty hq⟩
  · have hseven : d.scnt = 7#3 := by bv_omega
    have hsacc : d.sacc.toList = grp := (Sdb.group_of_full hseven).symm.trans h.group_eq
    have hqueued := Sdb.queueGroup_queued (vs := d.sacc.toList ++ [v]) (by simp) d
    rw [Sdb.push_valid_of_full h.dst_eq hv hseven, decodeFrom_valid_of_full hv (by simp [hlen, hseven]), ← hsacc]
    refine .running ?_ rest
    exact ⟨h.dst_eq, h.next_soff, Sdb.group_of_empty rfl, Nat.zero_le _, hqueued⟩

end Running

/-- A byte delivered with the queue empty is what the loop looks at next. -/
theorem Sdb.InLoop.push {padded : Bool} (h : d.InLoop off padded grp []) (hq : d.qcnt = 0) (b : Byte)
    (rest : List Byte) :
    (d.push b).Delivers (sourceOf rest) (decodeFrom off padded grp [] (b :: rest)).2
      (decodeFrom off padded grp [] (b :: rest)).1.response := by
  cases padded with
  | false =>
    by_cases hb : b = Config.padChar
    · rw [hb]
      exact h.push_padding hq rest
    · cases hv : dt b with
      | none =>
        rw [Sdb.push_invalid h.dst_eq hb hv, decodeFrom_invalid hb hv]
        exact Sdb.delivers_of_corrupt rfl rfl h.soff_eq hq
      | some v => exact h.push_valid hq hv rest
  | true =>
    by_cases hb : b = Config.padChar
    · rw [Sdb.push_padding_in_pad h.dst_eq hb, decodeFrom_more_padding hb]
      refine .running ?_ rest
      exact ⟨h.dst_eq, h.next_soff, h.group_eq, Nat.le_succ_of_le h.group_le, h.queued_eq⟩
    · rw [Sdb.push_other_in_pad h.dst_eq hb, decodeFrom_after_padding hb]
      exact Sdb.delivers_of_corrupt rfl rfl h.soff_eq hq

/-- The end of the source, with the queue empty, ends the loop. -/
theorem Sdb.InLoop.endInput {padded : Bool} (h : d.InLoop off padded grp []) (hq : d.qcnt = 0)
    (src : List SourceEvent) :
    d.endInput.Delivers src (decodeFrom off padded grp [] []).2 (decodeFrom off padded grp [] []).1.response := by
  cases padded with
  | true =>
    rw [Sdb.endInput_of_not_run (by simp [h.dst_eq]), decodeFrom_end_padded]
    exact Sdb.delivers_of_eof rfl rfl h.queued_eq
  | false =>
    by_cases hlone : d.scnt = 1#3
    · have hlen := h.lone_iff.mpr hlone
      rw [Sdb.endInput_of_lone ⟨h.dst_eq, hlone⟩, decodeFrom_end_lone hlen]
      exact Sdb.delivers_of_corrupt rfl rfl (h.prev_soff hlen) hq
    · have hqueued := Sdb.queueFinal_queued hq hlone
      rw [h.group_eq] at hqueued
      rw [Sdb.endInput_of_run h.dst_eq hlone, decodeFrom_end (h.lone_iff.not.mpr hlone)]
      exact Sdb.delivers_of_eof rfl rfl hqueued

end Round

/-- The registers after a source event has been admitted (42_stream_decoder.md R177, R182, R184). -/
def SourceEvent.consume : SourceEvent → Sdb → Sdb
  | .byte x, d => d.push x
  | .finish, d => d.endInput
  | .failure c, d => d.fail c

theorem SourceEvent.exec_command (e : SourceEvent) (s : State) : exec e.command s = admitInput e.consume s := by
  cases e <;> rfl

theorem SourceEvent.command_wellFormed (e : SourceEvent) : e.command.wellFormed = true := by
  cases e <;> rfl

theorem SourceEvent.consume_inv (e : SourceEvent) {d : Sdb} (h : d.Inv) : (e.consume d).Inv := by
  cases e with
  | byte x => exact Sdb.push_inv h x
  | finish => exact Sdb.endInput_inv h
  | failure c => exact Sdb.endGroup_inv h c (by simp)

/-- Whatever the source yields next, taken with the queue empty, does not change what is delivered in all. -/
theorem Sdb.Delivers.take_event {d : Sdb} {src : List SourceEvent} {bytes : List Byte} {r : Response}
    (h : d.Delivers src bytes r) (hdst : d.dst ≠ .term) (hq : d.qcnt = 0) :
    ∃ e later, src = e :: later ∧ (e.consume d).Delivers later bytes r := by
  cases h with
  | ended hterm => exact absurd hterm hdst
  | @running off padded grp out h rest =>
    obtain rfl : out = [] := h.queued_eq.symm.trans (Sdb.queued_of_empty hq)
    cases rest with
    | nil => exact ⟨.finish, [], rfl, h.endInput hq []⟩
    | cons b rest => exact ⟨.byte b, sourceOf rest, rfl, h.push hq b rest⟩

/-- The loop of Decode only adds to the bytes put out. -/
theorem decodeFrom_cons_out (off : Nat) (padded : Bool) (grp : List Val5) (x : Byte) (out ss : List Byte) :
    decodeFrom off padded grp (x :: out) ss =
      ((decodeFrom off padded grp out ss).1, x :: (decodeFrom off padded grp out ss).2) := by
  induction ss generalizing off padded grp out with
  | nil =>
    simp only [decodeFrom]
    split_ifs <;> rfl
  | cons c ss ih =>
    cases hv : dt c with
    | none =>
      simp only [decodeFrom, hv, List.cons_append, ih]
      split_ifs <;> rfl
    | some v =>
      simp only [decodeFrom, hv, List.cons_append, ih]
      split_ifs <;> rfl

/-- A byte read is the first of those delivered. -/
theorem Sdb.Delivers.dequeue {d : Sdb} {src : List SourceEvent} {bytes : List Byte} {r : Response}
    (h : d.Delivers src bytes r) (hinv : d.Inv) (hq : d.qcnt ≠ 0) :
    ∃ later, bytes = d.head :: later ∧ d.dequeue.Delivers src later r := by
  have hqueue := Sdb.queued_eq_head_cons hinv hq
  cases h with
  | ended hterm => exact ⟨_, hqueue, .ended hterm⟩
  | @running off padded grp out h rest =>
    have hout : out = d.head :: d.dequeue.queued := h.queued_eq.symm.trans hqueue
    have hrest : d.dequeue.InLoop off padded grp d.dequeue.queued :=
      ⟨h.dst_eq, h.soff_eq, h.group_eq, h.group_le, rfl⟩
    rw [hout, decodeFrom_cons_out]
    exact ⟨_, rfl, .running hrest rest⟩

/-- The loop has ended and every byte has been read. -/
def Sdb.Exhausted (d : Sdb) : Prop := d.dst = .term ∧ d.qcnt = 0

section Exhausted
variable {d : Sdb} (hend : d.Exhausted)
include hend

theorem Sdb.Exhausted.delivers_nothing {src : List SourceEvent} {bytes : List Byte} {r : Response}
    (h : d.Delivers src bytes r) : bytes = [] ∧ r = d.terminal := by
  obtain ⟨hdst, hq⟩ := hend
  cases h with
  | ended _ => exact ⟨Sdb.queued_of_empty hq, rfl⟩
  | running h rest =>
    have hloop := h.dst_eq
    rw [hdst] at hloop
    split at hloop <;> cases hloop

/-- The terminal response is neither a byte's nor AGAIN (42_stream_decoder.md R186). -/
theorem Sdb.Exhausted.terminal_rsp : d.terminal.rsp ≠ .ok ∧ d.terminal.rsp ≠ .again := by
  obtain ⟨hdst, -⟩ := hend
  cases hp : d.pst <;> simp [Sdb.terminal, Sdb.emptyAnswer, hdst, hp]

end Exhausted

/-! ## The machine while it is read (43_sequence_level.md R212) -/

/-- No command waits, and reads deliver the bytes and then the response. -/
structure State.Reading (s : State) (src : List SourceEvent) (bytes : List Byte) (r : Response) : Prop where
  waiting : s.waiting = none
  inv : s.sdb.Inv
  delivers : s.sdb.Delivers src bytes r

section Reading
variable {s : State} {src : List SourceEvent} {bytes : List Byte} {r : Response} (h : s.Reading src bytes r)
include h

/-- DREAD with a byte queued delivers the next byte. -/
theorem State.Reading.dread_of_queued (hq : s.sdb.qcnt ≠ 0) :
    ∃ x later t, bytes = x :: later ∧ issue .dread acceptAll s = some (readResponse x, t) ∧ t.Reading src later r := by
  obtain ⟨later, hbytes, hlater⟩ := h.delivers.dequeue h.inv hq
  exact ⟨_, later, _, hbytes, issue_of_respond rfl h.waiting (execDread_of_queued (s := s.offered .dread) hq),
    rfl, Sdb.dequeue_inv h.inv hq, hlater⟩

/-- DREAD with none queued changes no register. -/
theorem State.Reading.dread_of_empty (hq : s.sdb.qcnt = 0) :
    ∃ t, issue .dread acceptAll s = some (s.sdb.terminal, t) ∧ t.sdb = s.sdb ∧ t.Reading src bytes r :=
  ⟨_, issue_of_respond rfl h.waiting (execDread_of_empty (s := s.offered .dread) hq), rfl, rfl, h.inv, h.delivers⟩

/-- The source's next event is taken, answered OK. -/
theorem State.Reading.take_event (hdst : s.sdb.dst ≠ .term) (hq : s.sdb.qcnt = 0) :
    ∃ e later t, src = e :: later ∧ issue e.command acceptAll s = some (okResponse, t) ∧ t.Reading later bytes r := by
  obtain ⟨e, later, hsrc, hdelivers⟩ := h.delivers.take_event hdst hq
  have hexec : exec e.command (s.offered e.command) =
      Machine.respond .ok 0 0 ((s.offered e.command).withSdb (e.consume s.sdb)) :=
    (e.exec_command _).trans ((if_neg hdst).trans (if_neg (not_not_intro hq)))
  exact ⟨e, later, _, hsrc, issue_of_respond e.command_wellFormed h.waiting hexec, rfl, e.consume_inv h.inv, hdelivers⟩

end Reading

/-! ## read, by what its DREAD answers (43_sequence_level.md R212) -/

section ReadRounds
variable {want fuel : Nat} {buf : List Byte} {src : List SourceEvent} {s t : State}

theorem readFrom_last_byte {x : Byte} (hread : issue .dread acceptAll s = some (readResponse x, t))
    (hlast : buf.length + 1 = want) :
    readFrom acceptAll want (fuel + 1) buf src s = some ⟨buf ++ [x], okResponse, src, t⟩ := by
  simp [readFrom, hread, readResponse, hlast]

theorem readFrom_byte {x : Byte} (hread : issue .dread acceptAll s = some (readResponse x, t))
    (hmore : buf.length + 1 ≠ want) :
    readFrom acceptAll want (fuel + 1) buf src s = readFrom acceptAll want fuel (buf ++ [x]) src t := by
  simp [readFrom, hread, readResponse, hmore]

theorem readFrom_again {r : Response} {e : SourceEvent} {u : State}
    (hread : issue .dread acceptAll s = some (r, t)) (hr : r.rsp = .again)
    (htake : issue e.command acceptAll t = some (okResponse, u)) :
    readFrom acceptAll want (fuel + 1) buf (e :: src) s = readFrom acceptAll want fuel buf src u := by
  simp [readFrom, hread, hr, htake]

theorem readFrom_terminal {r : Response} (hread : issue .dread acceptAll s = some (r, t))
    (hr : r.rsp ≠ .ok ∧ r.rsp ≠ .again) :
    readFrom acceptAll want (fuel + 1) buf src s = some ⟨buf, if buf = [] then r else okResponse, src, t⟩ := by
  by_cases hbuf : buf = [] <;> simp [readFrom, hread, hr, hbuf]

end ReadRounds

/-- What a read leaves: it returned the next bytes, and if there was none, the terminal response. -/
structure ReadResult.Took (q : ReadResult) (buf : List Byte) (n : Nat) (bytes : List Byte) (r : Response) : Prop where
  bytes_eq : q.bytes = buf ++ bytes.take n
  reading : q.state.Reading q.source (bytes.drop n) r
  ended : q.bytes = [] → q.response = r ∧ q.state.sdb.Exhausted

/-- The loop of `read` fills the caller's buffer as far as bytes are delivered: each DREAD gives a byte, takes an event,
or is the last. -/
theorem readFrom_took {want : Nat} (fuel : Nat) {buf bytes : List Byte} {src : List SourceEvent} {s : State}
    {r : Response} (h : s.Reading src bytes r) (hbuf : buf.length < want)
    (hfuel : want + src.length < fuel + buf.length) :
    ∃ q, readFrom acceptAll want fuel buf src s = some q ∧ q.Took buf (want - buf.length) bytes r := by
  induction fuel generalizing buf src bytes s with
  | zero => omega
  | succ fuel ih =>
    by_cases hq : s.sdb.qcnt = 0
    · obtain ⟨t, hread, hsdb, ht⟩ := h.dread_of_empty hq
      by_cases hdst : s.sdb.dst = .term
      · have hend : s.sdb.Exhausted := ⟨hdst, hq⟩
        obtain ⟨rfl, rfl⟩ := hend.delivers_nothing h.delivers
        refine ⟨_, readFrom_terminal hread hend.terminal_rsp, by simp, by simpa using ht, fun hnil => ?_⟩
        exact ⟨if_pos hnil, hsdb ▸ hend⟩
      · have hagain : s.sdb.terminal.rsp = .again := by simp [Sdb.terminal, Sdb.emptyAnswer_of_not_term hdst]
        obtain ⟨e, later, u, rfl, htake, hu⟩ := ht.take_event (by rwa [hsdb]) (by rwa [hsdb])
        obtain ⟨q, hrest, htook⟩ := ih hu hbuf (by rw [List.length_cons] at hfuel; omega)
        exact ⟨q, (readFrom_again hread hagain htake).trans hrest, htook⟩
    · obtain ⟨x, later, t, rfl, hread, ht⟩ := h.dread_of_queued hq
      by_cases hlast : buf.length + 1 = want
      · have hone : want - buf.length = 1 := by omega
        refine ⟨_, readFrom_last_byte hread hlast, ?_⟩
        rw [hone]
        exact ⟨rfl, ht, by simp⟩
      · have hlen : (buf ++ [x]).length = buf.length + 1 := List.length_append
        have hleft : want - buf.length = want - (buf ++ [x]).length + 1 := by omega
        obtain ⟨q, hrest, hbytes, hreading, hended⟩ := ih (buf := buf ++ [x]) ht (by omega) (by omega)
        refine ⟨q, (readFrom_byte hread hlast).trans hrest, ?_⟩
        rw [hleft]
        exact ⟨by simp [hbytes], hreading, hended⟩

/-- A read of a size from 1 on. -/
theorem hostRead_took {want : Nat} (hwant : 1 ≤ want) {src : List SourceEvent} {bytes : List Byte} {s : State}
    {r : Response} (h : s.Reading src bytes r) :
    ∃ q, hostRead acceptAll want src s = some q ∧ q.Took [] want bytes r := by
  rw [hostRead, if_neg (by omega)]
  exact readFrom_took _ h (by simpa using Nat.lt_of_succ_le hwant) (by simp)

/-- Once every byte has been read, a read returns the terminal response and takes nothing from the source. -/
theorem hostRead_of_exhausted {want : Nat} (hwant : 1 ≤ want) {src : List SourceEvent} {bytes : List Byte} {s : State}
    {r : Response} (h : s.Reading src bytes r) (hend : s.sdb.Exhausted) :
    ∃ t, hostRead acceptAll want src s = some ⟨[], r, src, t⟩ ∧ t.Reading src bytes r ∧ t.sdb.Exhausted := by
  obtain ⟨t, hread, hsdb, ht⟩ := h.dread_of_empty hend.2
  obtain ⟨-, rfl⟩ := hend.delivers_nothing h.delivers
  refine ⟨t, ?_, ht, hsdb ▸ hend⟩
  rw [hostRead, if_neg (by omega), readFrom_terminal hread hend.terminal_rsp, if_pos rfl]

theorem hostReads_of_exhausted {src : List SourceEvent} {bytes : List Byte} {r : Response} {laters : List Nat}
    (hlaters : ∀ later ∈ laters, 1 ≤ later) {s : State} (h : s.Reading src bytes r) (hend : s.sdb.Exhausted) :
    ∃ qs, hostReads acceptAll src s laters = some qs ∧ qs.length = laters.length ∧
      ∀ q ∈ qs, q.bytes = [] ∧ q.response = r ∧ q.source = src := by
  induction laters generalizing s with
  | nil => exact ⟨[], rfl, rfl, List.forall_mem_nil _⟩
  | cons want wants ih =>
    obtain ⟨hwant, hwants⟩ := List.forall_mem_cons.mp hlaters
    obtain ⟨t, hread, ht, htend⟩ := hostRead_of_exhausted hwant h hend
    obtain ⟨qs, hrest, hlen, hqs⟩ := ih hwants ht htend
    refine ⟨⟨[], r, src, t⟩ :: qs, by simp only [hostReads, hread, hrest], by simp only [List.length_cons, hlen], ?_⟩
    exact List.forall_mem_cons.mpr ⟨⟨rfl, rfl, rfl⟩, hqs⟩

/-- Reads repeated until one returns no byte deliver every byte and then the terminal response. -/
theorem readAll_took {want : Nat} (hwant : 1 ≤ want) (calls : Nat) {got bytes : List Byte} {src : List SourceEvent}
    {s : State} {r : Response} (h : s.Reading src bytes r) (hcalls : bytes.length < calls) :
    ∃ q, readAll acceptAll want calls got src s = some q ∧ q.bytes = got ++ bytes ∧ q.response = r ∧
      q.state.Reading q.source [] r ∧ q.state.sdb.Exhausted := by
  induction calls generalizing got bytes src s with
  | zero => omega
  | succ calls ih =>
    obtain ⟨q, hread, hbytes, hreading, hended⟩ := hostRead_took hwant h
    rw [List.nil_append] at hbytes
    by_cases hnil : q.bytes = []
    · obtain ⟨hresp, hend⟩ := hended hnil
      obtain rfl : bytes = [] := by
        rw [hbytes, List.take_eq_nil_iff] at hnil
        exact hnil.resolve_left (by omega)
      exact ⟨{ q with bytes := got }, by simp [readAll, hread, hnil], by simp, hresp, by simpa using hreading, hend⟩
    · have hpos := List.length_pos_of_ne_nil hnil
      rw [hbytes, List.length_take] at hpos
      obtain ⟨q', hrest, hall, hdone⟩ := ih (got := got ++ q.bytes) hreading (by rw [List.length_drop]; omega)
      refine ⟨q', by simp [readAll, hread, hnil, hrest], ?_, hdone⟩
      rw [hall, hbytes, List.append_assoc, List.take_append_drop]

/-- Settles O48: the reset buffer delivers Decode and its status, which is then recorded for good. -/
theorem readsDeliverDecode : Obligations.ReadsDeliverDecode := by
  intro bytes want s hwant hreset hwait
  have hstart : s.Reading (sourceOf bytes) (decodeSeq bytes).2 (decodeSeq bytes).1.response :=
    ⟨hwait, hreset ▸ Sdb.reset_inv, hreset ▸ Sdb.reset_delivers bytes⟩
  have hbound := validSymbolsDecode.2 bytes
  obtain ⟨q, hread, hbytes, hresp, hreading, hend⟩ :=
    readAll_took hwant (bytes.length + 1) (got := []) hstart (by omega)
  exact ⟨q, hread, hbytes, hresp, fun laters hlaters => hresp ▸ hostReads_of_exhausted hlaters hreading hend⟩

end Sys2Proof.Machine

namespace Sys2Proof.Machine

/-! ## Every step goes on (60_exceptions.md R240) -/

/-- Settles O7: with an input record left, whatever the pins select answers a next state. -/
theorem everyStepGoesOn : Obligations.EveryStepGoesOn := by
  refine ⟨fun s => ?_, fun s => step_of_empty⟩
  cases hscript : s.script with
  | nil => exact ⟨s, step_of_empty hscript⟩
  | cons p rest =>
    obtain ⟨t, -, hnext, -⟩ := stepInput_answers { s with now := p, script := rest }
    exact ⟨t, (step_of_input hscript).trans hnext⟩

/-! ## What is recorded of the first failure (60_exceptions.md R249, R250) -/

/-- A step that is neither a reset nor the command `i` runs another command, or writes no register and makes no
transfer. -/
theorem step_of_nextIsNot {i : Instr} {s t : State} (hnext : s.nextIsNot i) (h : step s = .next t) :
    (t.seb = s.seb ∧ t.sdb = s.sdb ∧ t.transfers = s.transfers) ∨
      ∃ j p rest, j ≠ i ∧ exec j (s.taking p rest) = .next t := by
  cases hscript : s.script with
  | nil =>
    cases (step_of_empty hscript).symm.trans h
    exact .inl ⟨rfl, rfl, rfl⟩
  | cons p rest =>
    obtain ⟨hreset, hi⟩ := hnext (s.taking p rest) (by simp only [State.takeInput, hscript, State.taking])
    replace h : stepInput (s.taking p rest) = .next t := (step_of_input hscript).symm.trans h
    unfold stepInput at h
    cases hsel : (s.taking p rest).select with
    | reset => exact absurd hsel hreset
    | run j =>
      rw [hsel] at h
      exact .inr ⟨j, p, rest, fun hj => hi (hj ▸ hsel), h⟩
    | illegal =>
      rw [hsel] at h
      cases h
      exact .inl ⟨rfl, rfl, rfl⟩
    | idle =>
      rw [hsel] at h
      cases h
      exact .inl ⟨rfl, rfl, rfl⟩

/-- In TERM no command but DRST does more to the decode buffer than deliver a queued byte. -/
theorem exec_sdb_of_term {i : Instr} {s t : State} (hi : i ≠ .drst) (hterm : s.sdb.dst = .term)
    (h : exec i s = .next t) : t.sdb = s.sdb ∨ t.sdb = s.sdb.dequeue := by
  have hother (hunit : i.component ≠ .streamingDecodeBuffer) : t.sdb = s.sdb :=
    (unitsAreIndependent.1 i s t h).2 hunit
  have hinput {consume} (hadmits : exec i s = admitInput consume s) : t.sdb = s.sdb := by
    cases (exec_closed_of_term hadmits hterm).symm.trans h
    rfl
  cases i with
  | dpush b => exact .inl (hinput (exec_dpush b s))
  | dend => exact .inl (hinput (exec_dend s))
  | dfail c => exact .inl (hinput (exec_dfail c s))
  | dread =>
    by_cases hq : s.sdb.qcnt = 0
    · cases (execDread_of_empty hq).symm.trans h
      exact .inl rfl
    · cases (execDread_of_queued hq).symm.trans h
      exact .inr rfl
  | drst => exact absurd rfl hi
  | dstat => cases h; exact .inl rfl
  | _ => exact .inl (hother nofun)

/-- After a failure EWRITE and ECLOSE re-report it and do nothing else (41_stream_encoder.md R142). -/
theorem MayTransfer.exec_of_failed {i : Instr} (hi : MayTransfer i) {s : State} (herr : s.seb.errv = true) :
    exec i s = respond .ioerr (zextByte s.seb.errc) 0 s := by
  obtain rfl | ⟨b, rfl⟩ := hi
  · exact execEclose_of_failed herr
  · exact execEwrite_of_failed herr

/-- Once a failure is recorded, no command makes a transfer (41_stream_encoder.md R142). -/
theorem exec_transfers_of_failed {i : Instr} {s t : State} (herr : s.seb.errv = true) (h : exec i s = .next t) :
    t.transfers = s.transfers := by
  by_cases hmay : MayTransfer i
  · cases (hmay.exec_of_failed herr).symm.trans h
    rfl
  · exact (exec_frame_of_not_mayTransfer hmay h).1

/-- Settles O34: the command that runs is not the one that clears the unit, and every other command leaves what is
recorded. -/
theorem firstFailureWins : Obligations.FirstFailureWins := by
  intro s t h
  refine ⟨fun hterm hnext => ?_, fun herr hnext => ⟨step_keeps_failed_seb hnext herr h, ?_⟩⟩
  · have hsdb : t.sdb = s.sdb ∨ t.sdb = s.sdb.dequeue := by
      obtain ⟨-, hsame, -⟩ | ⟨j, p, rest, hj, hexec⟩ := step_of_nextIsNot hnext h
      · exact .inl hsame
      · exact exec_sdb_of_term (s := s.taking p rest) hj hterm hexec
    obtain hsame | hread := hsdb
    · rw [hsame]
      exact ⟨hterm, rfl, rfl, rfl, rfl⟩
    · rw [hread]
      exact ⟨hterm, rfl, rfl, rfl, rfl⟩
  · obtain ⟨-, -, hsame⟩ | ⟨j, p, rest, -, hexec⟩ := step_of_nextIsNot hnext h
    · exact hsame
    · exact exec_transfers_of_failed (s := s.taking p rest) herr hexec

/-! ## Refusals and reads (60_exceptions.md R243, 20_memory.md R57) -/

/-- The one response that an answering command drives has an allowed status. -/
theorem Answers.of_response {P : Status → Prop} {s t : State} {x : Result} {r : Response} (h : Answers P s x)
    (hnext : x = .next t) (hresp : t.responses = s.responses ++ [r]) : P r.rsp := by
  obtain ⟨u, answer, hu, hanswer, hP⟩ := h
  cases hu.symm.trans hnext
  have hone : answer.toList = [r] := List.append_cancel_left (hanswer.symm.trans hresp)
  exact hP r (Option.mem_toList.mp (by simp [hone]))

/-- From `s` nothing happens but a response. -/
def AnswersOnly (s : State) (x : Result) : Prop := ∃ st res rlen, x = respond st res rlen s

theorem AnswersOnly.next_eq {s t : State} {x : Result} {r : Response} (h : AnswersOnly s x) (hnext : x = .next t)
    (hresp : t.responses = s.responses ++ [r]) : t = { s with waiting := none, responses := s.responses ++ [r] } := by
  obtain ⟨st, res, rlen, heq⟩ := h
  cases heq.symm.trans hnext
  rw [← hresp]
  rfl

/-- The commands that write no register, whatever the state (20_memory.md R57). -/
def ReadsOnly (i : Instr) : Prop :=
  (∃ k, i = .encq k) ∨ (∃ j, i = .decq j) ∨ i = .elen ∨ i = .dlen ∨ i = .estat ∨ i = .dstat

theorem AnswersOpnd.answersOnly {f : State → Result} (hf : AnswersOpnd f) (s : State) : AnswersOnly s (f s) := by
  obtain ⟨st, res, rlen, heq⟩ := hf s.now.opnd
  exact ⟨st, res, rlen, heq s rfl⟩

theorem ReadsOnly.answersOnly {i : Instr} (hi : ReadsOnly i) (s : State) : AnswersOnly s (exec i s) := by
  obtain ⟨k, rfl⟩ | ⟨j, rfl⟩ | rfl | rfl | rfl | rfl := hi
  · exact (execEncq_answersOpnd k).answersOnly s
  · exact (execDecq_answersOpnd j).answersOnly s
  · exact ⟨_, _, _, rfl⟩
  · exact ⟨_, _, _, rfl⟩
  · exact ⟨_, _, _, rfl⟩
  · exact ⟨_, _, _, rfl⟩

/-- The statuses of a command that may have done more than answer: OK, or a failure of the sink that was not there
before. -/
def MayHaveWritten (s : State) (st : Status) : Prop := st = .ok ∨ (s.seb.errv = false ∧ st = .ioerr)

section AnswersOnlyByCommand
variable {s : State}

theorem sinkTransfer_mayHaveWritten {i : Instr} {syms : List Byte} {onAccept : State → Result}
    (herr : s.seb.errv = false) (hAccept : ∀ u : State, Answers (· = .ok) u (onAccept u)) :
    Answers (MayHaveWritten s) s (sinkTransfer i syms onAccept sinkFailed s) :=
  sinkTransfer_answers (fun u => (hAccept u).mono fun _ => .inl) fun _ _ => respond_answers (.inr ⟨herr, rfl⟩)

theorem ewrite_answersOnly_or_mayHaveWritten (b : Byte) :
    AnswersOnly s (execEwrite b s) ∨ Answers (MayHaveWritten s) s (execEwrite b s) := by
  cases herr : s.seb.errv with
  | true => exact .inl ⟨_, _, _, execEwrite_of_failed herr⟩
  | false =>
    cases hcl : s.seb.closed with
    | true => exact .inl ⟨_, _, _, execEwrite_of_closed herr hcl⟩
    | false =>
      right
      by_cases hroom : s.seb.vcnt < 4#3
      · exact execEwrite_of_room herr hcl hroom ▸ respond_answers (.inl rfl)
      · exact execEwrite_of_full herr hcl hroom ▸
          sinkTransfer_mayHaveWritten herr fun _ => respond_answers rfl

theorem eclose_answersOnly_or_mayHaveWritten :
    AnswersOnly s (execEclose s) ∨ Answers (MayHaveWritten s) s (execEclose s) := by
  cases herr : s.seb.errv with
  | true => exact .inl ⟨_, _, _, execEclose_of_failed herr⟩
  | false =>
    cases hcl : s.seb.closed with
    | true => exact .inl ⟨_, _, _, execEclose_of_closed herr hcl⟩
    | false =>
      right
      by_cases hempty : s.seb.vcnt = 0
      · exact execEclose_of_empty herr hcl hempty ▸ respond_answers (.inl rfl)
      · exact execEclose_of_pending herr hcl hempty ▸
          sinkTransfer_mayHaveWritten herr fun _ => respond_answers rfl

theorem input_answersOnly_or_mayHaveWritten {i : Instr} {consume : Sdb → Sdb} (hi : exec i s = admitInput consume s) :
    AnswersOnly s (exec i s) ∨ Answers (MayHaveWritten s) s (exec i s) := by
  by_cases hterm : s.sdb.dst = .term
  · exact .inl ⟨_, _, _, exec_closed_of_term hi hterm⟩
  · by_cases hq : s.sdb.qcnt = 0
    · exact .inr (exec_of_admitted hi hterm hq rfl ▸ respond_answers (.inl rfl))
    · exact .inl ⟨_, _, _, exec_busy_of_queued hi hterm hq⟩

theorem dread_answersOnly_or_mayHaveWritten :
    AnswersOnly s (execDread s) ∨ Answers (MayHaveWritten s) s (execDread s) := by
  by_cases hq : s.sdb.qcnt = 0
  · exact .inl ⟨_, _, _, execDread_of_empty hq⟩
  · exact .inr (execDread_of_queued hq ▸ respond_answers (.inl rfl))

end AnswersOnlyByCommand

/-- A command only answers, unless its status says that it may have done more. -/
theorem exec_answersOnly_or_mayHaveWritten (i : Instr) (s : State) :
    AnswersOnly s (exec i s) ∨ Answers (MayHaveWritten s) s (exec i s) := by
  cases i with
  | encq k => exact .inl ((execEncq_answersOpnd k).answersOnly s)
  | decq j => exact .inl ((execDecq_answersOpnd j).answersOnly s)
  | elen => exact .inl ⟨_, _, _, rfl⟩
  | dlen => exact .inl ⟨_, _, _, rfl⟩
  | ewrite b => exact ewrite_answersOnly_or_mayHaveWritten b
  | eclose => exact eclose_answersOnly_or_mayHaveWritten
  | erst => exact .inr (respond_answers (.inl rfl))
  | estat => exact .inl ⟨_, _, _, rfl⟩
  | dpush b => exact input_answersOnly_or_mayHaveWritten (exec_dpush b s)
  | dend => exact input_answersOnly_or_mayHaveWritten (exec_dend s)
  | dfail c => exact input_answersOnly_or_mayHaveWritten (exec_dfail c s)
  | dread => exact dread_answersOnly_or_mayHaveWritten
  | drst => exact .inr (respond_answers (.inl rfl))
  | dstat => exact .inl ⟨_, _, _, rfl⟩

/-- Settles O33: none of these statuses is one of a command that may have written, so the command only answers. -/
theorem refusalsAndReadsChangeNothing : Obligations.RefusalsAndReadsChangeNothing := by
  intro i s t r h hresp hcase
  obtain honly | hwrites := exec_answersOnly_or_mayHaveWritten i s
  · exact honly.next_eq h hresp
  · have hreads : ReadsOnly i := by
      obtain hok | ⟨herr, hio⟩ := hwrites.of_response h hresp
      · simpa [hok, ReadsOnly] using hcase
      · simpa [herr, hio, ReadsOnly] using hcase
    exact (hreads.answersOnly s).next_eq h hresp

/-! ## The cause of every status (60_exceptions.md R244) -/

/-- The table of R244 for the command `i` in state `s`: the status `st` is each error exactly under its causes. -/
def CausedIn (i : Instr) (s : State) (st : Status) : Prop :=
  (st = .again ↔ i = .dread ∧ s.sdb.qcnt = 0 ∧ s.sdb.dst ≠ .term) ∧
  (st = .busy ↔ ((∃ b, i = .dpush b) ∨ i = .dend ∨ ∃ c, i = .dfail c) ∧ s.sdb.dst ≠ .term ∧ s.sdb.qcnt ≠ 0) ∧
  (st = .eof ↔ i = .dread ∧ s.sdb.qcnt = 0 ∧ s.sdb.pst = .eof) ∧
  (st = .corrupt ↔
    (∃ j, i = .decq j ∧ (j = 1#4 ∨ ∃ m < j.toNat, dt (BitVec.ofNat 8 (laneNat s.now.opnd m)) = none)) ∨
    (i = .dread ∧ s.sdb.qcnt = 0 ∧ s.sdb.pst = .corrupt)) ∧
  (st = .ioerr ↔
    (((∃ b, i = .ewrite b) ∨ i = .eclose) ∧
      (s.seb.errv = true ∨ ((transferOf i s.seb).isSome = true ∧ ∃ c, s.now.ans = some (.fail c)))) ∨
    (i = .dread ∧ s.sdb.qcnt = 0 ∧ s.sdb.pst = .ioerr)) ∧
  (st = .closed ↔
    (∃ b, i = .ewrite b ∧ s.seb.errv = false ∧ s.seb.closed = true) ∨
    (((∃ b, i = .dpush b) ∨ i = .dend ∨ ∃ c, i = .dfail c) ∧ s.sdb.dst = .term)) ∧
  st ≠ .illegal

/-! When EWRITE and ECLOSE make a transfer (41_stream_encoder.md R143, R147). -/

@[simp] theorem transferOf_ewrite_isSome {e : Seb} {b : Byte} :
    (transferOf (.ewrite b) e).isSome = true ↔ e.errv = false ∧ e.closed = false ∧ e.vcnt = 4#3 := by
  cases herr : e.errv <;> cases hcl : e.closed <;> simp [transferOf, herr, hcl]

@[simp] theorem transferOf_eclose_isSome {e : Seb} :
    (transferOf .eclose e).isSome = true ↔ e.errv = false ∧ e.closed = false ∧ e.vcnt ≠ 0 := by
  cases herr : e.errv <;> cases hcl : e.closed <;> simp [transferOf, herr, hcl]

/-- DECQ finds no invalid lane exactly when DT lists every lane of its group (40_codec_core.md R110). -/
theorem firstInvalid_operandSymbols_eq_none_iff {n : Nat} (w : Bus) (h : n ≤ 8) :
    firstInvalid (operandSymbols w n) = none ↔ ∀ m < n, dt (BitVec.ofNat 8 (laneNat w m)) ≠ none := by
  simp [operandSymbols_eq w h, firstInvalid_eq_none_iff, busLane_eq]

/-! Each command is answered by its row. -/

section CausesByCommand
variable {s : State}

theorem encq_caused {k : BitVec 4} (hk : k ≤ 5#4) : Answers (CausedIn (.encq k) s) s (execEncq k s) :=
  execEncq_of_le hk ▸ respond_answers (by simp [CausedIn])

theorem decq_caused {j : BitVec 4} (hj : j ≤ 8#4) : Answers (CausedIn (.decq j) s) s (execDecq j s) := by
  have hlanes := firstInvalid_operandSymbols_eq_none_iff s.now.opnd (n := j.toNat) hj
  by_cases hlone : j = 1#4
  · subst hlone
    exact execDecq_of_lone ▸ respond_answers (by simp [CausedIn])
  · cases hlane : firstInvalid (operandSymbols s.now.opnd j.toNat) with
    | none =>
      have hvalid := hlanes.mp hlane
      exact execDecq_of_valid hj hlone hlane ▸ respond_answers (by simpa [CausedIn, hlone] using hvalid)
    | some m =>
      have hinvalid : ∃ m < j.toNat, dt (BitVec.ofNat 8 (laneNat s.now.opnd m)) = none := by
        by_contra hall
        push Not at hall
        rw [hlanes.mpr hall] at hlane
        cases hlane
      exact execDecq_of_invalid hj hlane ▸ respond_answers (by simp [CausedIn, hinvalid])

/-- A transfer that has ended is answered as the sink accepts it or fails. -/
theorem sinkTransfer_answers_of_ans {P : Status → Prop} {i : Instr} {syms : List Byte} {onAccept : State → Result}
    (hAccept : s.now.ans = some .accept → ∀ u : State, Answers P u (onAccept u))
    (hFail : ∀ c, s.now.ans = some (.fail c) → P .ioerr) :
    Answers P s (sinkTransfer i syms onAccept sinkFailed s) := by
  obtain ⟨-, heq⟩ | ⟨hans, heq⟩ | ⟨c, hans, heq⟩ := sinkTransfer_cases i syms onAccept sinkFailed s
  · exact heq ▸ answers_of_silent rfl
  · exact heq ▸ hAccept hans _
  · exact heq ▸ respond_answers (hFail c hans)

theorem ewrite_caused (b : Byte) (he : s.seb.Inv) : Answers (CausedIn (.ewrite b) s) s (execEwrite b s) := by
  obtain ⟨hvcnt, -, -⟩ := he
  cases herr : s.seb.errv with
  | true => exact execEwrite_of_failed herr ▸ respond_answers (by simp [CausedIn, herr])
  | false =>
    cases hcl : s.seb.closed with
    | true => exact execEwrite_of_closed herr hcl ▸ respond_answers (by simp [CausedIn, herr, hcl])
    | false =>
      by_cases hroom : s.seb.vcnt < 4#3
      · have hne : s.seb.vcnt ≠ 4#3 := BitVec.ne_of_lt hroom
        exact execEwrite_of_room herr hcl hroom ▸ respond_answers (by simp [CausedIn, herr, hcl, hne])
      · have hfull : s.seb.vcnt = 4#3 := BitVec.le_antisymm hvcnt (BitVec.not_lt.mp hroom)
        exact execEwrite_of_full herr hcl hroom ▸
          sinkTransfer_answers_of_ans (fun hans _ => respond_answers <| by simp [CausedIn, herr, hcl, hans])
            fun c hans => by simp [CausedIn, herr, hcl, hfull, hans]

theorem eclose_caused : Answers (CausedIn .eclose s) s (execEclose s) := by
  cases herr : s.seb.errv with
  | true => exact execEclose_of_failed herr ▸ respond_answers (by simp [CausedIn, herr])
  | false =>
    cases hcl : s.seb.closed with
    | true => exact execEclose_of_closed herr hcl ▸ respond_answers (by simp [CausedIn, herr, hcl])
    | false =>
      by_cases hempty : s.seb.vcnt = 0#3
      · exact execEclose_of_empty herr hcl hempty ▸ respond_answers (by simp [CausedIn, herr, hempty])
      · exact execEclose_of_pending herr hcl hempty ▸
          sinkTransfer_answers_of_ans (fun hans _ => respond_answers <| by simp [CausedIn, herr, hans])
            fun c hans => by simp [CausedIn, herr, hcl, hempty, hans]

/-- The rows of DPUSH, DEND and DFAIL. -/
theorem input_caused {i : Instr} {consume : Sdb → Sdb} (hexec : exec i s = admitInput consume s)
    (hi : (∃ b, i = .dpush b) ∨ i = .dend ∨ ∃ c, i = .dfail c) : Answers (CausedIn i s) s (exec i s) := by
  have hrow (st : Status) : CausedIn i s st ↔
      st ≠ .again ∧ (st = .busy ↔ s.sdb.dst ≠ .term ∧ s.sdb.qcnt ≠ 0) ∧ st ≠ .eof ∧ st ≠ .corrupt ∧ st ≠ .ioerr ∧
        (st = .closed ↔ s.sdb.dst = .term) ∧ st ≠ .illegal := by
    obtain ⟨b, rfl⟩ | rfl | ⟨c, rfl⟩ := hi <;> simp [CausedIn]
  by_cases hterm : s.sdb.dst = .term
  · exact exec_closed_of_term hexec hterm ▸ respond_answers ((hrow _).mpr (by simp [hterm]))
  · by_cases hq : s.sdb.qcnt = 0
    · exact exec_of_admitted hexec hterm hq rfl ▸ respond_answers ((hrow _).mpr (by simp [hterm, hq]))
    · exact exec_busy_of_queued hexec hterm hq ▸ respond_answers ((hrow _).mpr (by simpa [hterm] using hq))

theorem dread_caused (hd : s.sdb.Inv) : Answers (CausedIn .dread s) s (execDread s) := by
  by_cases hq : s.sdb.qcnt = 0#3
  · obtain ⟨hrecorded, -, -⟩ := hd
    have hterm (hp : s.sdb.pst ≠ .none) : s.sdb.dst = .term := by_contra fun h => hp (hrecorded.mpr h)
    rw [execDread_of_empty hq]
    refine respond_answers ?_
    cases hp : s.sdb.pst with
    | none =>
      have hopen := hrecorded.mp hp
      rw [Sdb.emptyAnswer_of_not_term hopen]
      simp [CausedIn, hq, hp, hopen]
    | eof =>
      rw [Sdb.emptyAnswer_of_eof (hterm (by simp [hp])) hp]
      simp [CausedIn, hq, hp, hterm]
    | corrupt =>
      rw [Sdb.emptyAnswer_of_corrupt (hterm (by simp [hp])) hp]
      simp [CausedIn, hq, hp, hterm]
    | ioerr =>
      rw [Sdb.emptyAnswer_of_ioerr (hterm (by simp [hp])) hp]
      simp [CausedIn, hq, hp, hterm]
  · exact execDread_of_queued hq ▸ respond_answers (by simp [CausedIn, hq])

end CausesByCommand

theorem exec_caused {i : Instr} {s : State} (he : s.seb.Inv) (hd : s.sdb.Inv) (hwf : i.wellFormed = true) :
    Answers (CausedIn i s) s (exec i s) := by
  cases i with
  | encq k => exact encq_caused (of_decide_eq_true hwf)
  | decq j => exact decq_caused (of_decide_eq_true hwf)
  | elen => exact respond_answers (by simp [CausedIn])
  | dlen => exact respond_answers (by simp [CausedIn])
  | ewrite b => exact ewrite_caused b he
  | eclose => exact eclose_caused
  | erst => exact respond_answers (by simp [CausedIn])
  | estat => exact respond_answers (by simp [CausedIn])
  | dpush b => exact input_caused (exec_dpush b s) (.inl ⟨b, rfl⟩)
  | dend => exact input_caused (exec_dend s) (.inr (.inl rfl))
  | dfail c => exact input_caused (exec_dfail c s) (.inr (.inr ⟨c, rfl⟩))
  | dread => exact dread_caused hd
  | drst => exact respond_answers (by simp [CausedIn])
  | dstat => exact respond_answers (by simp [CausedIn])

/-- Settles O32: each command's answers are those of its row of the table. -/
theorem statusCauses : Obligations.StatusCauses := by
  rintro i s t r ⟨he, hd, -⟩ hwf h hresp
  exact (exec_caused he hd hwf).of_response h hresp

end Sys2Proof.Machine

namespace Sys2Proof.Machine

/-! ## Reset (70_reset_and_hazards.md R270 to R272) -/

/-- RST is looked at before a waiting command and before the presented one (70_reset_and_hazards.md R270). -/
theorem stepInput_of_reset {s : State} (hrst : s.now.rst = true) : stepInput s = .next s.applyReset := by
  have hsel : s.select = .reset := by simp [State.select, hrst]
  rw [stepInput, hsel]

/-- Settles O8: the step resets both units, whatever else is on the pins. -/
theorem resetGivesResetValues : Obligations.ResetGivesResetValues := by
  intro s p rest hscript hrst
  exact ⟨_, (step_of_input hscript).trans (stepInput_of_reset hrst), rfl, rfl, rfl, rfl, rfl⟩

/-- Settles O9: every field of the two status images is 0 after reset. -/
theorem stateAfterReset : Obligations.StateAfterReset := by
  have hesr : State.reset.seb.esr = 0 := by decide
  have hdsr : State.reset.sdb.dsr = 0 := by decide
  exact ⟨rfl, rfl, hesr ▸ rfl, hdsr ▸ rfl⟩

/-- Settles O35: ERST resets the one unit and DRST the other. -/
theorem partialResetsMakeReset : Obligations.PartialResetsMakeReset := by
  intro s
  obtain ⟨-, herst⟩ := erstEffect s
  obtain ⟨-, hdrst⟩ := drstEffect _
  exact ⟨_, _, herst, rfl, hdrst, rfl, rfl, rfl, rfl⟩

end Sys2Proof.Machine

namespace Sys2Proof.Machine

/-! ## What the records of one command are answered (30_encoding.md R73, 20_memory.md R55) -/

/-- A record that asks for no reset and presents no command but `i`. -/
def PresentsOnly (i : Instr) (p : PortInput) : Prop := p.rst = false ∧ (p.cmd = none ∨ p.cmd = some (encode i))

/-- No command but `i` waits for the sink. -/
def State.WaitsOnlyFor (s : State) (i : Instr) : Prop := ∀ w ∈ s.waiting, w.cmd = i

theorem commandRecords_presentsOnly {i : Instr} {d : SinkDelay} {p : PortInput} (h : p ∈ commandRecords i d) :
    PresentsOnly i p := by
  obtain ⟨_ | n, a⟩ := d
  · obtain rfl := List.mem_singleton.mp h
    exact ⟨rfl, .inr rfl⟩
  · simp only [commandRecords, List.mem_cons, List.mem_append, List.mem_replicate, List.not_mem_nil, or_false] at h
    obtain rfl | ⟨-, rfl⟩ | rfl := h
    · exact ⟨rfl, .inr rfl⟩
    · exact ⟨rfl, .inl rfl⟩
    · exact ⟨rfl, .inl rfl⟩

theorem select_of_presentsOnly {i : Instr} (hwf : i.wellFormed = true) {s : State} (hpins : PresentsOnly i s.now)
    (hwait : s.WaitsOnlyFor i) : s.select = .run i ∨ s.select = .idle := by
  obtain ⟨hrst, hcmd⟩ := hpins
  rcases select_cases s with ⟨hreset, -⟩ | ⟨w, -, hw, hsel⟩ | ⟨w, -, -, hw, hsel⟩ | ⟨-, -, -, hsel⟩
  · cases hrst.symm.trans hreset
  · exact .inl (hwait w hw ▸ hsel)
  · obtain rfl : w = encode i := by simpa [hw] using hcmd
    rw [hsel, selectWord, decodeOfEncode i hwf]
    exact .inl rfl
  · exact .inr hsel

/-- Every exchange of a step is with the command that its pins selected. -/
theorem exchangeOf_cmd {s t : State} {p : PortInput} {rest : List PortInput} (hscript : s.script = p :: rest)
    {e : Exchange} (he : e ∈ exchangeOf s t) : e.cmd = (s.taking p rest).select.command := by
  simp only [exchangeOf, State.takeInput, hscript, List.mem_map] at he
  obtain ⟨r, -, rfl⟩ := he
  rfl

/-- A step in which nothing but `i` can run, keeps it so, and answers nothing but `i`. -/
theorem step_of_presentsOnly {i : Instr} (hi : MayTransfer i) {s t : State} {p : PortInput} {rest : List PortInput}
    (hscript : s.script = p :: rest) (hpins : PresentsOnly i p) (hwait : s.WaitsOnlyFor i) (hstep : step s = .next t) :
    t.WaitsOnlyFor i ∧ t.script = rest ∧ ∀ e ∈ exchangeOf s t, e.cmd = some i := by
  have hinput : stepInput (s.taking p rest) = .next t := (step_of_input hscript).symm.trans hstep
  rw [stepInput] at hinput
  obtain hrun | hidle := select_of_presentsOnly hi.wellFormed (s := s.taking p rest) hpins hwait
  · have hcmd : ∀ e ∈ exchangeOf s t, e.cmd = some i := fun e he => by
      rw [exchangeOf_cmd hscript he, hrun, Selected.command]
    rw [hrun] at hinput
    obtain ⟨-, -, offer, heq⟩ | ⟨ts, e, st, res, rlen, heq⟩ :=
      hi.runsOnSeb (s.taking p rest).seb (s.taking p rest).now.ans
    · cases (heq _ ⟨rfl, rfl⟩).symm.trans hinput
      exact ⟨fun w hw => by cases hw; rfl, rfl, hcmd⟩
    · cases (heq _ ⟨rfl, rfl⟩).symm.trans hinput
      exact ⟨nofun, rfl, hcmd⟩
  · rw [hidle] at hinput
    cases hinput
    refine ⟨hwait, rfl, ?_⟩
    rw [exchangeOf_of_input (t := s.taking p rest) (rs := []) hscript (List.append_nil _).symm]
    exact List.forall_mem_nil _

/-- As long as the records present nothing but `i`, nothing but `i` is answered. -/
theorem exchanges_cmd {i : Instr} (hi : MayTransfer i) {records rest : List PortInput}
    (hrecords : ∀ p ∈ records, PresentsOnly i p) {s : State} (hwait : s.WaitsOnlyFor i)
    (hscript : s.script = records ++ rest) : ∀ e ∈ exchanges records.length s, e.cmd = some i := by
  induction records generalizing s with
  | nil => exact List.forall_mem_nil _
  | cons p records ih =>
    obtain ⟨hpins, hlater⟩ := List.forall_mem_cons.mp hrecords
    obtain ⟨t, hstep⟩ := everyStepGoesOn.1 s
    obtain ⟨htwait, htscript, hcmd⟩ := step_of_presentsOnly hi hscript hpins hwait hstep
    rw [List.length_cons, exchanges_succ hstep]
    exact List.forall_mem_append.mpr ⟨hcmd, ih hlater htwait htscript⟩

/-- The records of a command that is answered once give that one exchange. -/
theorem exchanges_commandRecords {i : Instr} (hi : MayTransfer i) {d : SinkDelay} {rest : List PortInput}
    {s t : State} {r : Response} (hwait : s.waiting = none) (hscript : s.script = commandRecords i d ++ rest)
    (hrun : runSteps (commandRecords i d).length s = .next t) (hresp : t.responses = s.responses ++ [r]) :
    exchanges (commandRecords i d).length s = [⟨some i, r⟩] := by
  have hcmd := exchanges_cmd hi (fun _ => commandRecords_presentsOnly) (by simp [State.WaitsOnlyFor, hwait]) hscript
  have hresponses := List.append_cancel_left (hresp.symm.trans (exchangesAreTheResponses.1 _ _ _ hrun))
  obtain ⟨e, he, rfl⟩ := List.map_eq_singleton_iff.mp hresponses.symm
  rw [he] at hcmd ⊢
  rw [← hcmd e (List.mem_singleton_self e)]

/-! ## An encode whose every transfer is accepted (70_reset_and_hazards.md R284, 41_stream_encoder.md R153) -/

/-- `n` steps from `s` to `t` ran the command `i` alone, answered OK, with `rest` still to come. -/
structure RanOk (i : Instr) (n : Nat) (rest : List PortInput) (s t : State) : Prop where
  run : runSteps n s = .next t
  waiting : t.waiting = none
  script : t.script = rest
  sdb_eq : t.sdb = s.sdb
  responses : t.responses = s.responses ++ [okResponse]
  exchanges_eq : exchanges n s = [⟨some i, okResponse⟩]

/-- The records of a command that is answered OK when the sink accepts, and of a sink that does so in the end, run that
command. -/
theorem commandRecords_ranOk {i : Instr} (hi : MayTransfer i) {d : SinkDelay} (haccept : d.answer = .accept)
    {rest : List PortInput} {s : State} (hwait : s.waiting = none) (hscript : s.script = commandRecords i d ++ rest)
    (hok : ∀ v : State, v.seb = s.seb → v.now.ans = some .accept →
      ∃ u, exec i v = respond .ok 0 0 u ∧ u.responses = v.responses) :
    ∃ p t, p.ans = some .accept ∧ exec i (s.taking p rest) = .next t ∧
      RanOk i (commandRecords i d).length rest s t := by
  obtain ⟨p, hans, hrun⟩ := runSteps_commandRecords hi hwait hscript
  rw [haccept] at hans
  obtain ⟨u, hexec, hu⟩ := hok (s.taking p rest) rfl hans
  rw [hexec] at hrun
  have hresp : (u.respond .ok 0 0).responses = s.responses ++ [okResponse] := by
    rw [State.respond_responses, hu]
    rfl
  obtain ⟨-, htscript, -⟩ := hi.runsOnSeb.exec_of_answered hans hexec
  exact ⟨p, _, hans, hexec, hrun, rfl, htscript, hi.runsOnSeb.sdb_eq (s := s.taking p rest) hexec, hresp,
    exchanges_commandRecords hi hwait hscript hrun hresp⟩

/-- ECLOSE with its transfer accepted closes the buffer. -/
theorem Seb.Pending.eclose_closes {s t : State} {q : List Byte} (hq : s.seb.Pending q)
    (hans : s.now.ans = some .accept) (h : exec .eclose s = .next t) : t.seb.closed = true := by
  by_cases hempty : s.seb.vcnt = 0
  · cases (execEclose_of_empty hq.errv hq.closed hempty).symm.trans h
    rfl
  · cases ((execEclose_of_pending hq.errv hq.closed hempty).trans (sinkTransfer_of_accept hans)).symm.trans h
    rfl

/-- EWRITE with its transfer accepted leaves the buffer open. -/
theorem Seb.Pending.ewrite_pending {s t : State} {q : List Byte} {b : Byte} (hq : s.seb.Pending q)
    (hans : s.now.ans = some .accept) (h : exec (.ewrite b) s = .next t)
    (hok : t.responses = s.responses ++ [okResponse]) : ∃ q', t.seb.Pending q' := by
  obtain ⟨hpending, -⟩ | ⟨-, hpending, -⟩ := ewrite_of_ok hq hans h hok
  · exact ⟨_, hpending⟩
  · exact ⟨_, hpending⟩

/-- `n` steps from `s` to `t` ran a whole encode of `k` bytes: every command answered OK, the last one an ECLOSE. -/
structure EncodedOk (k n : Nat) (s t : State) : Prop where
  run : runSteps n s = .next t
  ended : t.runEnded = true
  closed : t.seb.closed = true
  sdb_eq : t.sdb = s.sdb
  responses : t.responses = s.responses ++ List.replicate (k + 1) okResponse
  lastClose : lastAnswer .eclose (exchanges n s) = some okResponse

/-- The records of ECLOSE alone are a whole encode of no more bytes. -/
theorem RanOk.encodedOk {n : Nat} {s t : State} (h : RanOk .eclose n [] s t) (hclosed : t.seb.closed = true) :
    EncodedOk 0 n s t where
  run := h.run
  ended := by simp [State.runEnded, h.script, h.waiting]
  closed := hclosed
  sdb_eq := h.sdb_eq
  responses := h.responses
  lastClose := by
    rw [h.exchanges_eq]
    rfl

/-- One more command answered OK before a whole encode. -/
theorem EncodedOk.cons {k m n : Nat} {i : Instr} {rest : List PortInput} {s t u : State} (hfirst : RanOk i m rest s t)
    (h : EncodedOk k n t u) : EncodedOk (k + 1) (m + n) s u where
  run := (runSteps_add hfirst.run).trans h.run
  ended := h.ended
  closed := h.closed
  sdb_eq := h.sdb_eq.trans hfirst.sdb_eq
  responses := by
    rw [h.responses, hfirst.responses, List.append_assoc]
    rfl
  lastClose := by
    rw [exchanges_add hfirst.run]
    exact lastAnswer_append_of_some h.lastClose

/-- From an open buffer without a failure, an encode whose every transfer is accepted runs to its end. -/
theorem encodeScript_encodedOk {writes : List (Byte × SinkDelay)} {atClose : SinkDelay}
    (hwrites : ∀ w ∈ writes, w.2.answer = .accept) (hclose : atClose.answer = .accept) {s : State} {q : List Byte}
    (hq : s.seb.Pending q) (hwait : s.waiting = none) (hscript : s.script = encodeScript writes atClose) :
    ∃ t, EncodedOk writes.length (encodeScript writes atClose).length s t := by
  induction writes generalizing s q with
  | nil =>
    obtain ⟨p, t, hans, hexec, hran⟩ :=
      commandRecords_ranOk (.inl rfl) hclose (rest := []) hwait (hscript.trans (List.append_nil _).symm)
        fun v hv => eclose_answers_ok (hv ▸ hq)
    exact ⟨t, hran.encodedOk (hq.eclose_closes (s := s.taking p []) hans hexec)⟩
  | cons w writes ih =>
    obtain ⟨hfirst, hlater⟩ := List.forall_mem_cons.mp hwrites
    rw [encodeScript_cons] at hscript
    obtain ⟨p, t, hans, hexec, hran⟩ :=
      commandRecords_ranOk (.inr ⟨w.1, rfl⟩) hfirst hwait hscript
        fun v hv hacc => ewrite_answers_ok (hv ▸ hq) hacc w.1
    obtain ⟨q', hq'⟩ := hq.ewrite_pending (s := s.taking p _) hans hexec hran.responses
    obtain ⟨u, hu⟩ := ih hlater hq' hran.waiting hran.script
    rw [encodeScript_cons, List.length_append]
    exact ⟨u, hu.cons hran⟩

/-- Settles O50: the run answers every command OK, and so it streams Encode of the bytes as O46 says. -/
theorem encodeRunEndsWell : Obligations.EncodeRunEndsWell := by
  intro writes atClose s hreset hwait hscript hwrites hclose
  obtain ⟨t, ht⟩ := encodeScript_encodedOk hwrites hclose (hreset ▸ Seb.reset_pending) hwait hscript
  rw [← hscript] at ht
  obtain ⟨new, htransfers, -, -, htaken, -⟩ :=
    encodeBufferStreamsEncode writes atClose s t _ rfl hreset hwait hscript ht.run ht.responses
  refine ⟨⟨t, okResponse, ht.run, ht.ended, ht.lastClose, rfl⟩, t, ht.run, ?_, ht.closed, ht.sdb_eq⟩
  rw [runResult, htransfers, List.drop_left, htaken]

end Sys2Proof.Machine

namespace Sys2Proof.Machine

/-! ## A decode run, command by command (70_reset_and_hazards.md R284, 43_sequence_level.md R215) -/

/-- DREAD with no byte queued does not answer as if it delivered one (42_stream_decoder.md R186). -/
theorem Sdb.terminal_not_ok (d : Sdb) : d.terminal.rsp ≠ .ok := by
  by_cases ht : d.dst = .term
  · cases hp : d.pst <;> simp [Sdb.terminal, Sdb.emptyAnswer, ht, hp]
  · simp [Sdb.terminal, Sdb.emptyAnswer_of_not_term ht]

theorem deliveredBytes_of_read (x : Byte) : deliveredBytes [⟨some .dread, readResponse x⟩] = [x] := by
  simp [deliveredBytes, readResponse]

theorem deliveredBytes_of_not_ok {i : Option Instr} {r : Response} (h : r.rsp ≠ .ok) :
    deliveredBytes [⟨i, r⟩] = [] := by
  simp [deliveredBytes, h]

theorem deliveredBytes_of_event (e : SourceEvent) (r : Response) : deliveredBytes [⟨some e.command, r⟩] = [] := by
  cases e <;> simp [deliveredBytes, SourceEvent.command]

/-- A source event is refused once the loop of Decode has ended (42_stream_decoder.md R176). -/
theorem SourceEvent.exec_of_term (e : SourceEvent) {s : State} (hdst : s.sdb.dst = .term) :
    exec e.command s = respond .closed 0 0 s :=
  (e.exec_command s).trans (if_pos hdst)

/-- A source event is taken while the loop goes on and no byte is queued (42_stream_decoder.md R176). -/
theorem SourceEvent.exec_of_admitted (e : SourceEvent) {s : State} (hdst : s.sdb.dst ≠ .term) (hq : s.sdb.qcnt = 0) :
    exec e.command s = respond .ok 0 0 (s.withSdb (e.consume s.sdb)) := by
  rw [e.exec_command, admitInput, if_neg hdst, if_neg (not_not_intro hq)]

/-- One command presented on its own, answered with its registers written: the step it takes and its exchange. -/
theorem step_of_plain {i : Instr} (hwf : i.wellFormed = true) {s : State} (hwait : s.waiting = none)
    {rest : List PortInput} (hscript : s.script = plainInput i :: rest) {d : Sdb} {r : Response}
    (hexec : ∀ v : State, v.sdb = s.sdb → exec i v = respond r.rsp r.res r.rlen (v.withSdb d)) :
    ∃ u, step s = .next u ∧ u.waiting = none ∧ u.script = rest ∧ u.sdb = d ∧
      exchangeOf s u = [⟨some i, r⟩] := by
  refine ⟨_, (step_of_issued hwf hwait hscript).trans (hexec _ rfl), rfl, rfl, rfl, ?_⟩
  have hsel : (s.taking (plainInput i) rest).select = .run i := by
    simp [State.select, State.taking, plainInput, inputOf, hwait, selectWord, decodeOfEncode i hwf]
  refine (exchangeOf_of_input (rs := [r]) hscript rfl).trans ?_
  rw [List.map_singleton, ← State.taking, hsel, Selected.command]

/-- After `n` steps from `start` the run is in `s`: what its DREADs have delivered so far, and what reads of `s` still
deliver, are `total` and then `r`. -/
structure Decoding (start : State) (total : List Byte) (r : Response) (n : Nat) (s : State) (src : List SourceEvent) :
    Prop where
  run : runSteps n start = .next s
  taken : n + s.script.length = start.script.length
  owed : ∃ later, s.Reading src later r ∧ deliveredBytes (exchanges n start) ++ later = total

section Decoding
variable {start s : State} {total : List Byte} {r : Response} {n : Nat} {src : List SourceEvent} {rest : List PortInput}

/-- One command more of the run: what it delivers is the next of what was owed. -/
theorem Decoding.answer (h : Decoding start total r n s src) {i : Instr} (hwf : i.wellFormed = true)
    (hscript : s.script = plainInput i :: rest) {d : Sdb} {answer : Response} {src' : List SourceEvent}
    (hexec : ∀ v : State, v.sdb = s.sdb → exec i v = respond answer.rsp answer.res answer.rlen (v.withSdb d))
    (hinv : d.Inv)
    (hdelivers : ∀ later, s.sdb.Delivers src later r →
      ∃ later', later = deliveredBytes [⟨some i, answer⟩] ++ later' ∧ d.Delivers src' later' r) :
    ∃ u, Decoding start total r (n + 1) u src' ∧ u.script = rest ∧ u.sdb = d ∧
      exchanges (n + 1) start = exchanges n start ++ [⟨some i, answer⟩] := by
  obtain ⟨later, hreading, htotal⟩ := h.owed
  obtain ⟨u, hstep, huwait, huscript, rfl, hexchange⟩ := step_of_plain hwf hreading.waiting hscript hexec
  obtain ⟨later', rfl, hlater⟩ := hdelivers later hreading.delivers
  have hexchanges : exchanges (n + 1) start = exchanges n start ++ [⟨some i, answer⟩] := by
    rw [exchanges_add h.run, exchanges_succ hstep, hexchange, exchanges_zero, List.append_nil]
  refine ⟨u, ⟨?_, ?_, later', ⟨huwait, hinv, hlater⟩, ?_⟩, huscript, rfl, hexchanges⟩
  · rw [runSteps_add h.run, runSteps_one, hstep]
  · rw [← h.taken, hscript, huscript, List.length_cons]
    omega
  · rw [hexchanges, deliveredBytes_append, List.append_assoc, htotal]

/-- DREAD with no byte queued delivers nothing and changes no register. -/
theorem Decoding.dread_of_empty (h : Decoding start total r n s src) (hq : s.sdb.qcnt = 0)
    (hscript : s.script = plainInput .dread :: rest) :
    ∃ u, Decoding start total r (n + 1) u src ∧ u.script = rest ∧ u.sdb = s.sdb ∧
      exchanges (n + 1) start = exchanges n start ++ [⟨some .dread, s.sdb.terminal⟩] := by
  obtain ⟨_, hreading, -⟩ := h.owed
  refine h.answer rfl hscript (fun v hv => ?_) hreading.inv fun later hlater => ⟨later, ?_, hlater⟩
  · rw [← hv] at hq ⊢
    exact execDread_of_empty hq
  · rw [deliveredBytes_of_not_ok s.sdb.terminal_not_ok, List.nil_append]

/-- DREAD with a byte queued delivers it. -/
theorem Decoding.dread_of_queued (h : Decoding start total r n s src) (hq : s.sdb.qcnt ≠ 0)
    (hscript : s.script = plainInput .dread :: rest) :
    ∃ u, Decoding start total r (n + 1) u src ∧ u.script = rest ∧ u.sdb = s.sdb.dequeue := by
  obtain ⟨_, hreading, -⟩ := h.owed
  have hexec : ∀ v : State, v.sdb = s.sdb →
      exec .dread v = respond .ok (zextByte s.sdb.head) 1 (v.withSdb s.sdb.dequeue) := fun v hv => by
    rw [← hv] at hq ⊢
    exact execDread_of_queued hq
  obtain ⟨u, hu, huscript, hsdb, -⟩ := h.answer rfl hscript (answer := readResponse s.sdb.head) hexec
    (Sdb.dequeue_inv hreading.inv hq) fun later hlater => by
      obtain ⟨later', hbytes, hlater'⟩ := hlater.dequeue hreading.inv hq
      exact ⟨later', by rw [deliveredBytes_of_read, hbytes, List.singleton_append], hlater'⟩
  exact ⟨u, hu, huscript, hsdb⟩

/-- DREAD takes one byte off the queue, if there is one. -/
theorem Decoding.dread (h : Decoding start total r n s src) (hscript : s.script = plainInput .dread :: rest) :
    ∃ u, Decoding start total r (n + 1) u src ∧ u.script = rest ∧ u.sdb.dst = s.sdb.dst ∧
      u.sdb.qcnt.toNat = s.sdb.qcnt.toNat - 1 := by
  by_cases hq : s.sdb.qcnt = 0
  · obtain ⟨u, hu, huscript, hsdb, -⟩ := h.dread_of_empty hq hscript
    exact ⟨u, hu, huscript, by rw [hsdb], by simp [hsdb, hq]⟩
  · obtain ⟨u, hu, huscript, hsdb⟩ := h.dread_of_queued hq hscript
    refine ⟨u, hu, huscript, by rw [hsdb, Sdb.dequeue], ?_⟩
    rw [hsdb, Sdb.dequeue]
    bv_omega

/-- As many DREADs as there are bytes queued, or more, drain the queue. -/
theorem Decoding.drain {k : Nat} (h : Decoding start total r n s src) (hk : s.sdb.qcnt.toNat ≤ k)
    (hscript : s.script = List.replicate k (plainInput .dread) ++ rest) :
    ∃ u, Decoding start total r (n + k) u src ∧ u.script = rest ∧ u.sdb.dst = s.sdb.dst ∧ u.sdb.qcnt = 0 := by
  induction k generalizing s n with
  | zero => exact ⟨s, h, hscript, rfl, BitVec.eq_of_toNat_eq (Nat.le_zero.mp hk)⟩
  | succ k ih =>
    obtain ⟨t, ht, htscript, htdst, htcount⟩ := h.dread hscript
    obtain ⟨u, hu, huscript, hudst, hempty⟩ := ih ht (by omega) htscript
    exact ⟨u, by rwa [Nat.add_right_comm] at hu, huscript, hudst.trans htdst, hempty⟩

/-- A source event after the loop has ended is refused. -/
theorem Decoding.event_of_exhausted {e : SourceEvent} (h : Decoding start total r n s (e :: src))
    (hend : s.sdb.Exhausted) (hscript : s.script = plainInput e.command :: rest) :
    ∃ u, Decoding start total r (n + 1) u src ∧ u.script = rest ∧ u.sdb.dst = .term := by
  have ⟨hdst, hq⟩ := hend
  obtain ⟨_, hreading, -⟩ := h.owed
  have hdelivers : ∀ later, s.sdb.Delivers (e :: src) later r → s.sdb.Delivers src later r := fun later hlater => by
    obtain ⟨rfl, rfl⟩ := hend.delivers_nothing hlater
    exact Sdb.queued_of_empty hq ▸ .ended hdst
  obtain ⟨u, hu, huscript, hsdb, -⟩ := h.answer (answer := ⟨.closed, 0, 0⟩) e.command_wellFormed hscript
    (fun v hv => hv ▸ e.exec_of_term (by rwa [hv])) hreading.inv fun later hlater =>
      ⟨later, by rw [deliveredBytes_of_event, List.nil_append], hdelivers later hlater⟩
  exact ⟨u, hu, huscript, hsdb ▸ hdst⟩

/-- A source event is taken while the loop goes on and the queue is empty. -/
theorem Decoding.event_of_running {e : SourceEvent} (h : Decoding start total r n s (e :: src))
    (hdst : s.sdb.dst ≠ .term) (hq : s.sdb.qcnt = 0) (hscript : s.script = plainInput e.command :: rest) :
    ∃ u, Decoding start total r (n + 1) u src ∧ u.script = rest ∧ u.sdb = e.consume s.sdb := by
  obtain ⟨_, hreading, -⟩ := h.owed
  obtain ⟨u, hu, huscript, hsdb, -⟩ := h.answer (answer := okResponse) e.command_wellFormed hscript
    (fun v hv => hv ▸ e.exec_of_admitted (by rwa [hv]) (by rwa [hv])) (e.consume_inv hreading.inv)
    fun later hlater => by
      obtain ⟨_, _, ⟨⟩, hconsumed⟩ := hlater.take_event hdst hq
      exact ⟨later, by rw [deliveredBytes_of_event, List.nil_append], hconsumed⟩
  exact ⟨u, hu, huscript, hsdb⟩

/-- The next source event; the end of the source ends the loop, if it had not ended before. -/
theorem Decoding.event {e : SourceEvent} (h : Decoding start total r n s (e :: src)) (hq : s.sdb.qcnt = 0)
    (hscript : s.script = plainInput e.command :: rest) :
    ∃ u, Decoding start total r (n + 1) u src ∧ u.script = rest ∧ (e = .finish → u.sdb.dst = .term) := by
  by_cases hdst : s.sdb.dst = .term
  · obtain ⟨u, hu, huscript, hterm⟩ := h.event_of_exhausted ⟨hdst, hq⟩ hscript
    exact ⟨u, hu, huscript, fun _ => hterm⟩
  · obtain ⟨u, hu, huscript, hsdb⟩ := h.event_of_running hdst hq hscript
    refine ⟨u, hu, huscript, ?_⟩
    rintro rfl
    exact hsdb ▸ Sdb.endInput_dst

/-- A source event and five DREADs, which drain whatever it has queued (70_reset_and_hazards.md R275). -/
theorem Decoding.round {e : SourceEvent} (h : Decoding start total r n s (e :: src)) (hq : s.sdb.qcnt = 0)
    (hscript : s.script = plainInput e.command :: (List.replicate 5 (plainInput .dread) ++ rest)) :
    ∃ m u, Decoding start total r m u src ∧ u.script = rest ∧ u.sdb.qcnt = 0 ∧
      (e = .finish → u.sdb.dst = .term) := by
  obtain ⟨t, ht, htscript, hfinish⟩ := h.event hq hscript
  obtain ⟨_, hreading, -⟩ := ht.owed
  obtain ⟨-, -, hbound⟩ := hreading.inv
  obtain ⟨u, hu, huscript, hudst, hempty⟩ := ht.drain (by omega) htscript
  exact ⟨_, u, hu, huscript, hempty, fun he => hudst.trans (hfinish he)⟩

theorem decodeScript_nil :
    decodeScript [] = plainInput .dend :: (List.replicate 5 (plainInput .dread) ++ [plainInput .dread]) := rfl

theorem decodeScript_cons (b : Byte) (bytes : List Byte) :
    decodeScript (b :: bytes) =
      plainInput (.dpush b) :: (List.replicate 5 (plainInput .dread) ++ decodeScript bytes) := by
  rw [decodeScript, List.flatMap_cons, List.append_assoc, List.cons_append, decodeScript]

/-- All the events and their DREADs leave nothing to deliver, and the terminal status to one more DREAD. -/
theorem Decoding.events {bytes : List Byte} (h : Decoding start total r n s (sourceOf bytes)) (hq : s.sdb.qcnt = 0)
    (hscript : s.script = decodeScript bytes) :
    ∃ m t, Decoding start total r m t [] ∧ t.script = [plainInput .dread] ∧ t.sdb.Exhausted := by
  induction bytes generalizing s n with
  | nil =>
    obtain ⟨m, t, ht, htscript, hempty, hfinish⟩ :=
      Decoding.round (e := .finish) h hq (hscript.trans decodeScript_nil)
    exact ⟨m, t, ht, htscript, hfinish rfl, hempty⟩
  | cons b bytes ih =>
    obtain ⟨m, t, ht, htscript, hempty, -⟩ :=
      Decoding.round (e := .byte b) (src := sourceOf bytes) h hq (hscript.trans (decodeScript_cons b bytes))
    exact ih ht hempty htscript

/-- The last DREAD of the run answers the terminal status. -/
theorem Decoding.last (h : Decoding start total r n s src) (hend : s.sdb.Exhausted)
    (hscript : s.script = [plainInput .dread]) :
    ∃ t, runSteps start.script.length start = .next t ∧ t.runEnded = true ∧ t.sdb.qcnt = 0 ∧
      deliveredBytes (exchanges start.script.length start) = total ∧
      lastAnswer .dread (exchanges start.script.length start) = some r := by
  obtain ⟨_, hreading, -⟩ := h.owed
  obtain ⟨-, hr⟩ := hend.delivers_nothing hreading.delivers
  obtain ⟨t, ht, htscript, hsdb, hexchanges⟩ := h.dread_of_empty hend.2 hscript
  obtain ⟨later, htreading, htotal⟩ := ht.owed
  obtain ⟨rfl, -⟩ := Sdb.Exhausted.delivers_nothing (hsdb ▸ hend) htreading.delivers
  have hsteps : start.script.length = n + 1 := by
    rw [← ht.taken, htscript]
    rfl
  rw [hsteps]
  refine ⟨t, ht.run, by simp [State.runEnded, htscript, htreading.waiting], hsdb ▸ hend.2, ?_, ?_⟩
  · rwa [List.append_nil] at htotal
  · rw [hexchanges, hr]
    exact lastAnswer_append_of_some rfl

end Decoding

theorem Verdict.response_isTerminal (v : Verdict) : v.response.isTerminal = true := by
  cases v <;> rfl

/-- Settles O51: the reset buffer owes Decode and its status, and the script leaves nothing owed but the status. -/
theorem decodeRunEndsWell : Obligations.DecodeRunEndsWell := by
  intro bytes s hreset hwait hscript
  have hstart : Decoding s (decodeSeq bytes).2 (decodeSeq bytes).1.response 0 s (sourceOf bytes) :=
    ⟨rfl, Nat.zero_add _, _, ⟨hwait, hreset ▸ Sdb.reset_inv, hreset ▸ Sdb.reset_delivers bytes⟩, rfl⟩
  obtain ⟨_, t, ht, htscript, hend⟩ := hstart.events (by rw [hreset]; rfl) hscript
  obtain ⟨u, hrun, hended, hempty, hdelivered, hlast⟩ := ht.last hend htscript
  exact ⟨⟨u, _, hrun, hended, hempty, hlast, Verdict.response_isTerminal _⟩, hdelivered, hlast⟩

end Sys2Proof.Machine
